-- ==== Sys2Proof/Word.lean ====
section
/-! DEFINITION. The word types of TLR-MCC (spec/00_scope.md R10): bytes, 16-bit words, the 48-bit
command word, and the four packed words of a clock (spec/10_state.md R35, R37). -/

namespace Sys2Proof

/-- A byte is 8 bits (R10). -/
abbrev Byte := BitVec 8

/-- A 16-bit word: a header field, a checksum, a packed clock word. -/
abbrev Half := BitVec 16

/-- The 32-bit result (spec/10_state.md R23). -/
abbrev Word := BitVec 32

/-- The 48-bit command word (spec/30_encoding.md R100). -/
abbrev CmdWord := BitVec 48

/-- "Four packed time/date words", `RTCW[0..3]` or `ALRMW[0..3]` (R35, R37). -/
structure ClockWords where
  w0 : Half
  w1 : Half
  w2 : Half
  w3 : Half
deriving DecidableEq, Repr

/-- The seven fields of a clock snapshot, in the order of field numbers 0 to 6
(spec/10_state.md R30). -/
inductive Field where
  | sec
  | min
  | hour
  | weekday
  | day
  | month
  | year
deriving DecidableEq, Repr

/-- A clock snapshot: seven BCD bytes (R30). -/
structure Snap where
  sec : Byte
  min : Byte
  hour : Byte
  weekday : Byte
  day : Byte
  month : Byte
  year : Byte
deriving DecidableEq, Repr

/-- The alarm snapshot: six BCD bytes, no weekday (R33). -/
structure AlarmSnap where
  sec : Byte
  min : Byte
  hour : Byte
  day : Byte
  month : Byte
  year : Byte
deriving DecidableEq, Repr

end Sys2Proof
end

