-- ==== Sys2Proof/Config.lean ====
section
/-! DEFINITION. What an implementation fixes and what the spec leaves free.
`Params` is the parameter table of spec/00_scope.md R9. The bodyless constants under `Config` are
either OPEN parameters (no value in the spec) or free values (spec/93_implementation_defined.md):
nothing in Lean can evaluate them or prove a value of them. -/

namespace Sys2Proof

/-- `CHECK_ORDER`: the order in which the host's main loop tests its two sticky flags (R9, R298). -/
inductive CheckOrder where
  | alarmFirst
  | byteFirst
deriving DecidableEq, Repr, Inhabited

/-- `F32_PERM`: for each byte of the float pattern, most significant first, the number of the
received byte that goes there (R9, R162). -/
structure Perm4 where
  k0 : Fin 4
  k1 : Fin 4
  k2 : Fin 4
  k3 : Fin 4
deriving DecidableEq, Repr

/-- The parameters of R9, all of them. The constraints the table puts on them are `Params.ok`
(Sys2Proof/WellFormed.lean). Carried in State and written by no step (log 4). -/
structure Params where
  /-- `FB_SIZE`: bytes of the frame buffer -/
  fbSize : Nat
  /-- `POLL_BUDGET`: polls allowed for each awaited byte -/
  pollBudget : Nat
  /-- `WR_RSP_LEN`: length of the response awaited after a write request -/
  wrRspLen : Nat
  /-- `WR_BYTECOUNT_BYTE`: is a byte-count byte put before the payload of a write request -/
  wrByteCount : Bool
  /-- `F32_PERM` -/
  f32Perm : Perm4
  /-- `UNLOCK_SLAVE` -/
  unlockSlave : Byte
  /-- `UNLOCK_ADDR` -/
  unlockAddr : Half
  /-- `UNLOCK_KEY` -/
  unlockKey : List Byte
  /-- `KEY1` -/
  key1 : Byte
  /-- `KEY2` -/
  key2 : Byte
  /-- `RESET_TIME`, the packed words -/
  resetTime : ClockWords
  /-- `RESET_TIME`, the half-second phase -/
  resetHalf : Bool
  /-- `TORN_RETRY_MAX`, a parameter of the host -/
  tornRetryMax : Nat
  /-- `CHECK_ORDER`, a parameter of the host -/
  checkOrder : CheckOrder
deriving DecidableEq, Repr

/-! OPEN parameters (R9; log 4). -/

/-- One less than `POLL_BUDGET`, which is at least 1. -/
opaque Config.openPollBudgetPred : Nat

/-- `UNLOCK_SLAVE`. -/
opaque Config.openUnlockSlave : Byte

/-- `UNLOCK_ADDR`. -/
opaque Config.openUnlockAddr : Half

/-- The 16-bit registers whose bytes are `UNLOCK_KEY` (so its length is even). -/
opaque Config.openUnlockRegs : List Half

/-- `KEY1`. -/
opaque Config.openKey1 : Byte

/-- `KEY2`. -/
opaque Config.openKey2 : Byte

/-- `TORN_RETRY_MAX`. -/
opaque Config.openTornRetryMax : Nat

/-- `CHECK_ORDER`. -/
opaque Config.openCheckOrder : CheckOrder

/-! Free values. -/

/-- A byte of the frame buffer that is unspecified (U1, U2): a function of the epoch (how often the
buffer has become unspecified, anew at every step while the tag is UNSPEC, R43) and the index (log 6). -/
opaque Config.freeByte : Nat → Nat → Byte

/-- `FBLEN` while it is unspecified (R43; `havoc FBLEN`, R185, U1), by epoch; used only cut to `FB_SIZE`, the
bound R41 sets (log 7). -/
opaque Config.freeLen : Nat → Nat

/-- The transport's answer to poll number `n` where no answer is scripted: an oracle (R85, U4; log 8). -/
opaque Config.rxAnswer : Nat → Option Byte

/-- `bin2bcd` above 99, where R13 does not define it (log 10). -/
opaque Config.bcdBeyond : Nat → Byte

/-- `lastday y m` where R14 does not define it (log 10). -/
opaque Config.lastdayBeyond : Nat → Nat → Nat

/-- `weekday y m d` where R219 does not define it (log 10). -/
opaque Config.weekdayBeyond : Nat → Nat → Nat → Nat

/-- `match(edge)` for an `AMASK` of 10 to 15, which R278 has no row for (log 10). -/
opaque Config.matchBeyond : BitVec 4 → Bool → Bool

/-- The bytes of a sequence of registers, each high byte first (spec/20_memory.md R72). -/
def regsToBytes : List Half → List Byte
  | [] => []
  | r :: rs => r.extractLsb' 8 8 :: r.extractLsb' 0 8 :: regsToBytes rs

/-- The default `RESET_TIME`: 2000-01-01 00:00:00, weekday 6 (R9, R60). -/
def defaultResetTime : ClockWords := ⟨0x0000#16, 0x0600#16, 0x0101#16, 0x0000#16⟩

/-- The parameters with R9's defaults; the OPEN ones are bodyless constants (log 4, log 5). -/
def Params.default : Params where
  fbSize := 256
  pollBudget := Config.openPollBudgetPred + 1
  wrRspLen := 8
  wrByteCount := false
  f32Perm := ⟨3, 2, 1, 0⟩
  unlockSlave := Config.openUnlockSlave
  unlockAddr := Config.openUnlockAddr
  unlockKey := regsToBytes (Config.openUnlockRegs.take 124)
  key1 := Config.openKey1
  key2 := Config.openKey2
  resetTime := defaultResetTime
  resetHalf := false
  tornRetryMax := Config.openTornRetryMax
  checkOrder := Config.openCheckOrder

end Sys2Proof
end

