-- ==== Sys2Proof/Machine/Crc.lean ====
section
/-! DEFINITION. The checksum of spec/40_framecodec.md: CRC-16, frame and verify, as functions on
byte sequences. -/

namespace Sys2Proof.Machine

/-- One round per bit, least significant bit first (R130). -/
def crcRound (c : Half) : Half :=
  if c.getLsbD 0 then (c >>> 1) ^^^ 0xA001#16 else c >>> 1

/-- The eight rounds after a byte has entered the low 8 bits (R130). -/
def crcRounds8 (c : Half) : Half :=
  crcRound (crcRound (crcRound (crcRound (crcRound (crcRound (crcRound (crcRound c)))))))

/-- One byte of the loop of R130. -/
def crcByte (c : Half) (b : Byte) : Half :=
  crcRounds8 (c ^^^ b.setWidth 16)

/-- `crc16(s)` (R130): initial value all-ones, no final inversion or byte swap. -/
def crc16 (s : List Byte) : Half :=
  s.foldl crcByte 0xFFFF#16

/-- `v[15:8]`. -/
def hiByte (v : Half) : Byte := v.extractLsb' 8 8

/-- `v[7:0]`. -/
def loByte (v : Half) : Byte := v.extractLsb' 0 8

/-- The two bytes of a header field, big-endian (spec/20_memory.md R70). -/
def be16 (v : Half) : List Byte := [hiByte v, loByte v]

/-- The two bytes of a checksum, low byte first (spec/20_memory.md R71). -/
def le16 (v : Half) : List Byte := [loByte v, hiByte v]

/-- `frame(s)`: the sequence with its checksum appended low byte first (R133). -/
def frame (s : List Byte) : List Byte := s ++ le16 (crc16 s)

/-- `verify(f)`: recompute the checksum over all bytes but the trailing two and compare (R139). -/
def verifyFrame (f : List Byte) : Bool :=
  if f.length < 2 then false
  else
    crc16 (f.take (f.length - 2)) ==
      ((f.getD (f.length - 2) 0#8).setWidth 16 ||| ((f.getD (f.length - 1) 0#8).setWidth 16 <<< 8))

/-- The six header bytes and checksum of a read request, format REQ03
(spec/30_encoding.md R105; R134). -/
def readRequest (slave : Byte) (addr count : Half) : List Byte :=
  frame ([slave, 0x03#8] ++ be16 addr ++ be16 count)

/-- The write request, format REQ16 (spec/30_encoding.md R106; R136): the 16-bit field holds the
register count, and the byte count stands before the payload only when `WR_BYTECOUNT_BYTE`. -/
def writeRequest (byteCount : Bool) (slave : Byte) (addr : Half) (pl : List Byte) : List Byte :=
  frame ([slave, 0x10#8] ++ be16 addr ++ be16 (BitVec.ofNat 16 (pl.length / 2)) ++
    (if byteCount then [BitVec.ofNat 8 pl.length] else []) ++ pl)

/-- The three operand checks of BLDWR, shared by WRMULT and UNLOCK (R136, R190): even length, the
frame fits the buffer, the byte count fits one byte. -/
def writeRequestFits (P : Params) (pl : List Byte) : Bool :=
  pl.length % 2 == 0 &&
  (8 + (if P.wrByteCount then 1 else 0) + pl.length ≤ P.fbSize : Bool) &&
  (!P.wrByteCount || (pl.length ≤ 255 : Bool))

end Sys2Proof.Machine
end

