-- ==== Sys2Proof/Machine/Calendar.lean ====
section
/-! DEFINITION. BCD and calendar helpers (spec/00_scope.md R13, R14; spec/43_clockkeeper.md R219).
Outside the domain a rule gives a helper, its value is a free constant of Config, never a chosen
number (log 10); on the field-valid values the registers hold no rule leaves the domain (R34). -/

namespace Sys2Proof.Machine

/-- `b[7:4]`, the tens digit. -/
def tens (b : Byte) : Nat := b.toNat / 16

/-- `b[3:0]`, the units digit. -/
def units (b : Byte) : Nat := b.toNat % 16

/-- Valid BCD: both nibbles 0 to 9 (R13). -/
def isBcd (b : Byte) : Bool := tens b ≤ 9 && units b ≤ 9

/-- `bcd2bin(b) = 10 * b[7:4] + b[3:0]`, total, 0 to 165 (R13). -/
def bcd2bin (b : Byte) : Nat := 10 * tens b + units b

/-- `bin2bcd(v)`, defined for 0 to 99 only (R13). -/
def bin2bcd (v : Nat) : Byte :=
  if v ≤ 99 then BitVec.ofNat 8 (v / 10 * 16 + v % 10) else Config.bcdBeyond v

/-- `leap(y)` (R14). -/
def leap (y : Nat) : Bool := y % 4 == 0

/-- `DPM`, the fixed days-per-month table, by month 1 to 12 (R14). -/
def daysPerMonth : Nat → Nat
  | 1 => 31
  | 2 => 28
  | 3 => 31
  | 4 => 30
  | 5 => 31
  | 6 => 30
  | 7 => 31
  | 8 => 31
  | 9 => 30
  | 10 => 31
  | 11 => 30
  | 12 => 31
  | _ => 0

/-- `lastday(y, m)`, defined for `1 <= m <= 12` and a year 0 to 99 (R14). -/
def lastday (y m : Nat) : Nat :=
  if 1 ≤ m ∧ m ≤ 12 ∧ y ≤ 99 then
    if m = 2 ∧ leap y then daysPerMonth m + 1 else daysPerMonth m
  else Config.lastdayBeyond y m

/-- `MO[m - 1]` of R219, by month 1 to 12. -/
def monthOffset : Nat → Nat
  | 1 => 0
  | 2 => 3
  | 3 => 3
  | 4 => 6
  | 5 => 1
  | 6 => 4
  | 7 => 6
  | 8 => 2
  | 9 => 5
  | 10 => 0
  | 11 => 3
  | 12 => 5
  | _ => 0

/-- `weekday(y, m, d)`, 0 for Sunday (R219); defined for a year 0 to 99, a month 1 to 12 and a day
1 to 31, whether or not the date exists. -/
def weekday (y m d : Nat) : Nat :=
  if y ≤ 99 ∧ 1 ≤ m ∧ m ≤ 12 ∧ 1 ≤ d ∧ d ≤ 31 then
    let offset := 6 + y + y / 4 + monthOffset m + d
    (if y % 4 = 0 ∧ m < 3 then offset - 1 else offset) % 7
  else Config.weekdayBeyond y m d

/-- A weekday 0 to 6 as a byte: the same byte in BCD as in binary (spec/10_state.md R30). -/
def weekdayByte (y m d : Byte) : Byte :=
  BitVec.ofNat 8 (weekday (bcd2bin y) (bcd2bin m) (bcd2bin d))

end Sys2Proof.Machine
end

