-- ==== Sys2Proof/Machine/Snapshot.lean ====
section
/-! DEFINITION. Clock snapshots and packed clock words: field access, packing, validity
(spec/10_state.md R30 to R37). -/

namespace Sys2Proof.Machine

/-- A snapshot as a byte sequence: its fields in field-number order (R30). -/
def snapBytes (p : Snap) : List Byte :=
  [p.sec, p.min, p.hour, p.weekday, p.day, p.month, p.year]

/-- The alarm snapshot as a byte sequence (R33). -/
def alarmBytes (p : AlarmSnap) : List Byte :=
  [p.sec, p.min, p.hour, p.day, p.month, p.year]

def snapGet (p : Snap) : Field → Byte
  | .sec => p.sec
  | .min => p.min
  | .hour => p.hour
  | .weekday => p.weekday
  | .day => p.day
  | .month => p.month
  | .year => p.year

def snapSet (p : Snap) (f : Field) (b : Byte) : Snap :=
  match f with
  | .sec => { p with sec := b }
  | .min => { p with min := b }
  | .hour => { p with hour := b }
  | .weekday => { p with weekday := b }
  | .day => { p with day := b }
  | .month => { p with month := b }
  | .year => { p with year := b }

/-- `T.f` or `A.f`: field `f` unpacked from the words (the packing table of R35). -/
def wordsField (t : ClockWords) : Field → Byte
  | .sec => t.w0.extractLsb' 0 8
  | .min => t.w0.extractLsb' 8 8
  | .hour => t.w1.extractLsb' 0 8
  | .weekday => t.w1.extractLsb' 8 8
  | .day => t.w2.extractLsb' 0 8
  | .month => t.w2.extractLsb' 8 8
  | .year => t.w3.extractLsb' 0 8

/-- The seven fields unpacked from the words. -/
def wordsSnap (t : ClockWords) : Snap where
  sec := wordsField t .sec
  min := wordsField t .min
  hour := wordsField t .hour
  weekday := wordsField t .weekday
  day := wordsField t .day
  month := wordsField t .month
  year := wordsField t .year

/-- `hi : lo`, the two bytes of a packed word. -/
def packWord (hi lo : Byte) : Half := hi ++ lo

/-- A write of one whole word. Bits 15:8 of word 3 read as zero and ignore writes (R35, and R37 by
"packed exactly as `RTCW`"; log 19). -/
def writeWord (t : ClockWords) (i : Fin 4) (v : Half) : ClockWords :=
  match i with
  | 0 => { t with w0 := v }
  | 1 => { t with w1 := v }
  | 2 => { t with w2 := v }
  | 3 => { t with w3 := v &&& 0x00FF#16 }

/-- One field within its range and valid BCD (R34, field-valid). -/
def fieldOk (lo hi : Nat) (b : Byte) : Bool :=
  isBcd b && (lo ≤ bcd2bin b : Bool) && (bcd2bin b ≤ hi : Bool)

/-- Field-valid, for a snapshot with a weekday (R34). -/
def snapValid (p : Snap) : Bool :=
  fieldOk 0 59 p.sec && fieldOk 0 59 p.min && fieldOk 0 23 p.hour && fieldOk 0 6 p.weekday &&
  fieldOk 1 31 p.day && fieldOk 1 12 p.month && fieldOk 0 99 p.year

/-- Field-valid, for the alarm snapshot (R34). -/
def alarmValid (p : AlarmSnap) : Bool :=
  fieldOk 0 59 p.sec && fieldOk 0 59 p.min && fieldOk 0 23 p.hour &&
  fieldOk 1 31 p.day && fieldOk 1 12 p.month && fieldOk 0 99 p.year

/-- Field-valid words: the unpacked fields are, and the hard-wired byte of word 3 is zero
(R34, R35). -/
def wordsValid (t : ClockWords) : Bool :=
  snapValid (wordsSnap t) && t.w3.extractLsb' 8 8 == 0#8

/-- Date-valid: field-valid and the day exists in the month (R34). -/
def dateValid (p : Snap) : Bool :=
  snapValid p && (bcd2bin p.day ≤ lastday (bcd2bin p.year) (bcd2bin p.month) : Bool)

/-- A valid clock value: date-valid and the weekday is the date's (R34). -/
def clockValid (p : Snap) : Bool :=
  dateValid p && bcd2bin p.weekday == weekday (bcd2bin p.year) (bcd2bin p.month) (bcd2bin p.day)

end Sys2Proof.Machine
end

