-- ==== Sys2Proof/Syntax.lean ====
section
/-! DEFINITION. The instructions: one constructor per row of spec/opcode_table.json, the 28 commands
of spec/30_encoding.md R102 and the four wire formats of R105 to R108. A constructor holds exactly
the operands its row uses (R111); the fields marked `-`, and the unused high bits of a narrow
operand, are ignored (R103 b) and not held (log 27). `pl` is the payload operand (R100). -/

namespace Sys2Proof

/-- The four wire formats (rows of format `WIRE` of the opcode table). -/
inductive WireFormat where
  | req03
  | req16
  | rsp03
  | rsp16
deriving DecidableEq, Repr

inductive Instr where
  -- U1 FrameCodec (spec/40_framecodec.md)
  /-- BLDRD slave, start address, register count (R134) -/
  | bldrd (a : Byte) (b c : Half)
  /-- BLDWR slave, start address, register bytes (R136) -/
  | bldwr (a : Byte) (b : Half) (pl : List Byte)
  /-- SEAL byte sequence (R138) -/
  | seal (pl : List Byte)
  /-- VERIFY (R140) -/
  | verify
  /-- LDFB frame bytes (R142) -/
  | ldfb (pl : List Byte)
  /-- RDFB (R143) -/
  | rdfb
  /-- CRC16 byte sequence (R132) -/
  | crc16 (pl : List Byte)
  -- U2 Transcoder (spec/41_transcoder.md)
  /-- DECF32S payload offset (R162) -/
  | decf32s (c : Half)
  /-- DECI32 payload offset (R164) -/
  | deci32 (c : Half)
  /-- DECU16 payload offset (R166) -/
  | decu16 (c : Half)
  /-- DECSTR width, payload offset (R168) -/
  | decstr (a : Byte) (c : Half)
  /-- DECBCD6 payload offset (R170) -/
  | decbcd6 (c : Half)
  -- U3 ModbusClient (spec/42_modbus_client.md)
  /-- RDHOLD slave, start address, register count (R188) -/
  | rdhold (a : Byte) (b c : Half)
  /-- WRMULT slave, start address, register bytes (R190) -/
  | wrmult (a : Byte) (b : Half) (pl : List Byte)
  /-- UNLOCK (R192) -/
  | unlock
  -- U4 ClockKeeper (spec/43_clockkeeper.md)
  /-- CKREAD (R210) -/
  | ckread
  /-- CKCOMMIT (R214) -/
  | ckcommit
  /-- WKDAY year, month `b[7:0]`, day `c[7:0]` (R220) -/
  | wkday (y m d : Byte)
  /-- SETSEC target (all of `a`), value `c[7:0]` (R222) -/
  | setsec (a v : Byte)
  /-- SETMIN (R223) -/
  | setmin (a v : Byte)
  /-- SETHOUR (R224) -/
  | sethour (a v : Byte)
  /-- SETDAY (R226) -/
  | setday (a v : Byte)
  /-- SETMON (R225) -/
  | setmon (a v : Byte)
  /-- SETYEAR (R227) -/
  | setyear (a v : Byte)
  /-- SETALM (R230) -/
  | setalm
  /-- ARMALM mask `c[3:0]` (R232) -/
  | armalm (m : BitVec 4)
  /-- RDSNAP selector (R236) -/
  | rdsnap (a : Byte)
  /-- RDSTAT (R238) -/
  | rdstat
  -- wire formats (spec/30_encoding.md section 2)
  /-- REQ03: slave id, start address, register count, checksum low and high byte (R105) -/
  | req03 (s : Byte) (a n : Half) (l h : Byte)
  /-- REQ16: slave id, start address, register count, optional byte count, payload, checksum (R106) -/
  | req16 (s : Byte) (a n : Half) (k : Option Byte) (payload : List Byte) (l h : Byte)
  /-- RSP03: slave id, byte count, payload, checksum (R107) -/
  | rsp03 (s k : Byte) (payload : List Byte) (l h : Byte)
  /-- RSP16: body of no fixed layout, checksum (R108) -/
  | rsp16 (body : List Byte) (l h : Byte)
deriving DecidableEq, Repr

end Sys2Proof
end

