-- ==== Sys2Proof/WellFormed.lean ====
section
/-! DEFINITION. Well-formedness: the constraints of the parameter table (spec/00_scope.md R9) and of
the encodings (spec/30_encoding.md R100, R105 to R108). -/

namespace Sys2Proof

open Sys2Proof.Machine

/-- `F32_PERM` is a permutation of (0,1,2,3) (R9). -/
def Perm4.ok (k : Perm4) : Bool :=
  k.k0 != k.k1 && k.k0 != k.k2 && k.k0 != k.k3 && k.k1 != k.k2 && k.k1 != k.k3 && k.k2 != k.k3

/-- `UNLOCK_KEY`: even length, at most `FB_SIZE` - 8, one less with a byte-count byte (R9); "so that
the `BadArg` checks never fail" (R192). -/
def Params.keyOk (P : Params) : Bool := writeRequestFits P P.unlockKey

/-- The constraints of R9. -/
def Params.ok (P : Params) : Bool :=
  (8 ≤ P.fbSize : Bool) && (1 ≤ P.pollBudget : Bool) &&
  (5 ≤ P.wrRspLen : Bool) && (P.wrRspLen ≤ P.fbSize : Bool) &&
  P.f32Perm.ok && P.keyOk &&
  clockValid (wordsSnap P.resetTime) && P.resetTime.w3.extractLsb' 8 8 == 0#8

/-- The payload operand is a byte sequence of length 0 to `FB_SIZE` (R100). -/
def payloadFits (P : Params) (pl : List Byte) : Bool := pl.length ≤ P.fbSize

/-- The trailing two bytes are the checksum of the bytes before them (R104). -/
def checksumOk (body : List Byte) (l h : Byte) : Bool := le16 (Machine.crc16 body) == [l, h]

/-- Well-formed instructions. A command is well formed when its payload fits (R100): no operand value
is ill formed (an out-of-range selector is refused by the command itself, R103 c). A wire frame is
well formed when it is of its format: counts as R105 to R108 say and a right checksum. -/
def Instr.wf (P : Params) : Instr → Bool
  | .bldwr _ _ pl => payloadFits P pl
  | .seal pl => payloadFits P pl
  | .ldfb pl => payloadFits P pl
  | .crc16 pl => payloadFits P pl
  | .wrmult _ _ pl => payloadFits P pl
  | .req03 s a n l h => checksumOk ([s, 0x03#8] ++ be16 a ++ be16 n) l h
  | .req16 s a n k pl l h =>
    pl.length == 2 * n.toNat &&
    (if P.wrByteCount then k == some (BitVec.ofNat 8 pl.length) && (pl.length ≤ 255 : Bool) else k == none) &&
    checksumOk ([s, 0x10#8] ++ be16 a ++ be16 n ++ k.toList ++ pl) l h
  | .rsp03 s k pl l h =>
    pl.length % 2 == 0 && pl.length == k.toNat && checksumOk ([s, 0x03#8, k] ++ pl) l h
  | .rsp16 body l h => body.length + 2 == P.wrRspLen && checksumOk body l h
  | .bldrd _ _ _ => true
  | .verify => true
  | .rdfb => true
  | .decf32s _ => true
  | .deci32 _ => true
  | .decu16 _ => true
  | .decstr _ _ => true
  | .decbcd6 _ => true
  | .rdhold _ _ _ => true
  | .unlock => true
  | .ckread => true
  | .ckcommit => true
  | .wkday _ _ _ => true
  | .setsec _ _ => true
  | .setmin _ _ => true
  | .sethour _ _ => true
  | .setday _ _ => true
  | .setmon _ _ => true
  | .setyear _ _ => true
  | .setalm => true
  | .armalm _ => true
  | .rdsnap _ => true
  | .rdstat => true

end Sys2Proof
end

