-- ==== Sys2Proof/Decode.lean ====
section
/-! DEFINITION. Decoding of command words (spec/30_encoding.md R100, R102, R103) and of wire frames
(R105 to R108), total, rejecting by name; then the encoder, written from the same tables. -/

namespace Sys2Proof

open Sys2Proof.Machine

/-- What arrives to be decoded: a command word with its payload operand on the command port (R100),
or the bytes of a frame on the wire, whose format is known from its direction and from the request it
answers (R104, R109), never from its bytes alone. -/
inductive Coded where
  | command (cmd : CmdWord) (pl : List Byte)
  | wire (fmt : WireFormat) (bytes : List Byte)
deriving DecidableEq, Repr

/-- Why bits are no instruction. -/
inductive DecodeError where
  /-- the `op` is not in the table of R102 -/
  | illegalOp (op : Byte)
  /-- the bytes are too few for the format -/
  | frameLength
  /-- byte 1 is not the format's function code -/
  | functionCode (fc : Byte)
deriving DecidableEq, Repr

/-- `op`, bits 47:40. -/
def opField (cmd : CmdWord) : Byte := cmd.extractLsb' 40 8

/-- `a`, bits 39:32. -/
def aField (cmd : CmdWord) : Byte := cmd.extractLsb' 32 8

/-- `b`, bits 31:16. -/
def bField (cmd : CmdWord) : Half := cmd.extractLsb' 16 16

/-- `c`, bits 15:0. -/
def cField (cmd : CmdWord) : Half := cmd.extractLsb' 0 16

/-- The opcode map of R102: the command a word's `op` names, with the operands R111 takes. -/
def decodeFields (op : Byte) (a : Byte) (b c : Half) (pl : List Byte) : Except DecodeError Instr :=
  match op with
  | 0x01#8 => .ok (.bldrd a b c)
  | 0x02#8 => .ok (.bldwr a b pl)
  | 0x03#8 => .ok (.seal pl)
  | 0x04#8 => .ok .verify
  | 0x05#8 => .ok (.ldfb pl)
  | 0x06#8 => .ok .rdfb
  | 0x07#8 => .ok (.crc16 pl)
  | 0x10#8 => .ok (.decf32s c)
  | 0x11#8 => .ok (.deci32 c)
  | 0x12#8 => .ok (.decu16 c)
  | 0x13#8 => .ok (.decstr a c)
  | 0x14#8 => .ok (.decbcd6 c)
  | 0x20#8 => .ok (.rdhold a b c)
  | 0x21#8 => .ok (.wrmult a b pl)
  | 0x22#8 => .ok .unlock
  | 0x30#8 => .ok .ckread
  | 0x31#8 => .ok .ckcommit
  | 0x32#8 => .ok (.wkday a (loByte b) (loByte c))
  | 0x33#8 => .ok (.setsec a (loByte c))
  | 0x34#8 => .ok (.setmin a (loByte c))
  | 0x35#8 => .ok (.sethour a (loByte c))
  | 0x36#8 => .ok (.setday a (loByte c))
  | 0x37#8 => .ok (.setmon a (loByte c))
  | 0x38#8 => .ok (.setyear a (loByte c))
  | 0x39#8 => .ok .setalm
  | 0x3A#8 => .ok (.armalm (c.extractLsb' 0 4))
  | 0x3B#8 => .ok (.rdsnap a)
  | 0x3C#8 => .ok .rdstat
  | op => .error (.illegalOp op)

/-- Decode a command word with its payload operand. A decoder needs only `op` (R102). -/
def decodeCommand (cmd : CmdWord) (pl : List Byte) : Except DecodeError Instr :=
  decodeFields (opField cmd) (aField cmd) (bField cmd) (cField cmd) pl

/-- A byte sequence as everything but its last two bytes, and those two (the checksum, R104). -/
def splitChecksum : List Byte → Option (List Byte × Byte × Byte)
  | [] => none
  | [_] => none
  | [l, h] => some ([], l, h)
  | x :: y :: z :: rest =>
    match splitChecksum (y :: z :: rest) with
    | some (body, l, h) => some (x :: body, l, h)
    | none => none

/-- Decode a frame of a known format (R105 to R108). `bc` says whether a write request carries the
byte-count byte (parameter `WR_BYTECOUNT_BYTE`). The checksum is not examined here: a corrupt frame
is still bytes on the wire. -/
def decodeFrame (bc : Bool) (fmt : WireFormat) (bytes : List Byte) : Except DecodeError Instr :=
  match fmt with
  | .req03 =>
    match bytes with
    | [s, fc, a1, a0, n1, n0, l, h] =>
      if fc = 0x03#8 then .ok (.req03 s (a1 ++ a0) (n1 ++ n0) l h) else .error (.functionCode fc)
    | _ => .error .frameLength
  | .req16 =>
    match bytes with
    | s :: fc :: a1 :: a0 :: n1 :: n0 :: rest =>
      if fc = 0x10#8 then
        match splitChecksum rest with
        | some (body, l, h) =>
          if bc then
            match body with
            | k :: pl => .ok (.req16 s (a1 ++ a0) (n1 ++ n0) (some k) pl l h)
            | [] => .error .frameLength
          else .ok (.req16 s (a1 ++ a0) (n1 ++ n0) none body l h)
        | none => .error .frameLength
      else .error (.functionCode fc)
    | _ => .error .frameLength
  | .rsp03 =>
    match bytes with
    | s :: fc :: k :: rest =>
      if fc = 0x03#8 then
        match splitChecksum rest with
        | some (pl, l, h) => .ok (.rsp03 s k pl l h)
        | none => .error .frameLength
      else .error (.functionCode fc)
    | _ => .error .frameLength
  | .rsp16 =>
    match splitChecksum bytes with
    | some (body, l, h) => .ok (.rsp16 body l h)
    | none => .error .frameLength

/-- Decode whatever arrives. -/
def decode (bc : Bool) : Coded → Except DecodeError Instr
  | .command cmd pl => decodeCommand cmd pl
  | .wire fmt bytes => decodeFrame bc fmt bytes

/-! ## The encoder -/

/-- A command word from its four fields (R100). -/
def cmdWord (op a : Byte) (b c : Half) : CmdWord :=
  (op.setWidth 48 <<< 40) ||| (a.setWidth 48 <<< 32) ||| (b.setWidth 48 <<< 16) ||| c.setWidth 48

/-- The bytes of a REQ03 frame (R105). -/
def req03Bytes (s : Byte) (a n : Half) (l h : Byte) : List Byte :=
  [s, 0x03#8] ++ be16 a ++ be16 n ++ [l, h]

/-- The bytes of a REQ16 frame (R106). -/
def req16Bytes (s : Byte) (a n : Half) (k : Option Byte) (pl : List Byte) (l h : Byte) : List Byte :=
  [s, 0x10#8] ++ be16 a ++ be16 n ++ k.toList ++ pl ++ [l, h]

/-- The bytes of an RSP03 frame (R107). -/
def rsp03Bytes (s k : Byte) (pl : List Byte) (l h : Byte) : List Byte :=
  [s, 0x03#8, k] ++ pl ++ [l, h]

/-- The bytes of an RSP16 frame (R108). -/
def rsp16Bytes (body : List Byte) (l h : Byte) : List Byte := body ++ [l, h]

/-- The encoding of an instruction: the command word with its payload, ignored fields zero
(R102, R111), or the bytes of the frame. -/
def encode : Instr → Coded
  | .bldrd a b c => .command (cmdWord 0x01#8 a b c) []
  | .bldwr a b pl => .command (cmdWord 0x02#8 a b 0#16) pl
  | .seal pl => .command (cmdWord 0x03#8 0#8 0#16 0#16) pl
  | .verify => .command (cmdWord 0x04#8 0#8 0#16 0#16) []
  | .ldfb pl => .command (cmdWord 0x05#8 0#8 0#16 0#16) pl
  | .rdfb => .command (cmdWord 0x06#8 0#8 0#16 0#16) []
  | .crc16 pl => .command (cmdWord 0x07#8 0#8 0#16 0#16) pl
  | .decf32s c => .command (cmdWord 0x10#8 0#8 0#16 c) []
  | .deci32 c => .command (cmdWord 0x11#8 0#8 0#16 c) []
  | .decu16 c => .command (cmdWord 0x12#8 0#8 0#16 c) []
  | .decstr a c => .command (cmdWord 0x13#8 a 0#16 c) []
  | .decbcd6 c => .command (cmdWord 0x14#8 0#8 0#16 c) []
  | .rdhold a b c => .command (cmdWord 0x20#8 a b c) []
  | .wrmult a b pl => .command (cmdWord 0x21#8 a b 0#16) pl
  | .unlock => .command (cmdWord 0x22#8 0#8 0#16 0#16) []
  | .ckread => .command (cmdWord 0x30#8 0#8 0#16 0#16) []
  | .ckcommit => .command (cmdWord 0x31#8 0#8 0#16 0#16) []
  | .wkday y m d => .command (cmdWord 0x32#8 y (m.setWidth 16) (d.setWidth 16)) []
  | .setsec a v => .command (cmdWord 0x33#8 a 0#16 (v.setWidth 16)) []
  | .setmin a v => .command (cmdWord 0x34#8 a 0#16 (v.setWidth 16)) []
  | .sethour a v => .command (cmdWord 0x35#8 a 0#16 (v.setWidth 16)) []
  | .setday a v => .command (cmdWord 0x36#8 a 0#16 (v.setWidth 16)) []
  | .setmon a v => .command (cmdWord 0x37#8 a 0#16 (v.setWidth 16)) []
  | .setyear a v => .command (cmdWord 0x38#8 a 0#16 (v.setWidth 16)) []
  | .setalm => .command (cmdWord 0x39#8 0#8 0#16 0#16) []
  | .armalm m => .command (cmdWord 0x3A#8 0#8 0#16 (m.setWidth 16)) []
  | .rdsnap a => .command (cmdWord 0x3B#8 a 0#16 0#16) []
  | .rdstat => .command (cmdWord 0x3C#8 0#8 0#16 0#16) []
  | .req03 s a n l h => .wire .req03 (req03Bytes s a n l h)
  | .req16 s a n k pl l h => .wire .req16 (req16Bytes s a n k pl l h)
  | .rsp03 s k pl l h => .wire .rsp03 (rsp03Bytes s k pl l h)
  | .rsp16 body l h => .wire .rsp16 (rsp16Bytes body l h)

/-! ## Words as the opcode table numbers them -/

/-- The bytes of a number of `n` bytes, first byte most significant (the table's "first byte
leftmost"). -/
def bytesOfNumber : Nat → Nat → List Byte
  | 0, _ => []
  | n + 1, w => bytesOfNumber n (w / 256) ++ [BitVec.ofNat 8 w]

/-- A row's word as it reaches the machine (log 25): 48 bits are a command word with an empty
payload; anything else is the leading bytes of a frame, first byte most significant, continued with
zero bytes to the shortest frame of its format. A frame's format is then taken from its function
code, and for code 3 from its length (the table gives all 8 bytes of REQ03 and the first two of
RSP03); RSP16 has no fixed layout and takes the rest. -/
def codedOfTableWord (nbits w : Nat) : Coded :=
  if nbits = 48 then .command (BitVec.ofNat 48 w) []
  else
    let bytes := bytesOfNumber (nbits / 8) w
    let upTo (n : Nat) := bytes ++ List.replicate (n - bytes.length) 0#8
    match bytes with
    | _ :: fc :: _ =>
      if fc = 0x10#8 then .wire .req16 (upTo 8)
      else if fc = 0x03#8 then
        (if nbits = 64 then .wire .req03 bytes else .wire .rsp03 (upTo 5))
      else .wire .rsp16 (upTo 8)
    | _ => .wire .rsp16 (upTo 8)

/-- The instruction the decoder reads from a table row's word, with the default parameters. -/
def decodeTableWord (nbits w : Nat) : Option Instr :=
  match decode false (codedOfTableWord nbits w) with
  | .ok i => some i
  | .error _ => none

end Sys2Proof
end

