-- ==== Sys2Proof/Machine/State.lean ====
section
/-! DEFINITION. The state of TLR-MCC as plain data (spec/10_state.md R20 to R61), the reasons a step
can stop, and the state after reset (R60). The fields of the last group are the model's own: the
parameters, the transport, the command port's inputs and the agenda of events (log 1, 4, 6, 8). -/

namespace Sys2Proof.Machine

/-- The status a command ends with (spec/60_exceptions.md R260). Codes 7 to 15 are never written
(log 18). -/
inductive Status where
  | ok
  | timeout
  | checksumMismatch
  | tornRead
  | badArg
  | notValid
  | illegalOp
deriving DecidableEq, Repr

/-- The kind tag of the buffer, `FBK` (R42). Values 5 to 7 never occur (log 18). -/
inductive BufKind where
  | empty
  | raw
  | good
  | bad
  | unspec
deriving DecidableEq, Repr

/-- The sequencer state `SEQ` (R27): the command word accepted, its payload operand, and the number
of the next micro-step. -/
inductive Seq where
  | idle
  | busy (cmd : CmdWord) (pl : List Byte) (k : Nat)
deriving DecidableEq, Repr

/-- One atomic step of some agent (spec/00_scope.md R12, R15; spec/60_exceptions.md R286). -/
inductive Event where
  /-- the sequencer performs its next micro-step -/
  | micro
  /-- the half-second tick, HTICK (R275) -/
  | htick
  /-- the acknowledge of the alarm interrupt, ALMACK (R282) -/
  | almack
  /-- RESET (R310) -/
  | reset
  /-- the host issues a command, or a frame passes on the wire -/
  | input (c : Coded)
deriving DecidableEq, Repr

/-- The frame buffer's specified bytes: (index, byte) pairs, strictly rising. A byte that is not
listed is unspecified (R43, R60; log 6). -/
abbrev Memory := List Host.Cell

structure State where
  -- (a) response registers
  /-- `ST` (R21) -/
  st : Status
  /-- `W`, the RangeWrap flag (R22) -/
  w : Bool
  /-- `R` (R23) -/
  r : Word
  /-- `RB` (R24) -/
  rb : List Byte
  -- (b) sequencer
  /-- `SEQ` (R27) -/
  seq : Seq
  /-- `IDX` (R28) -/
  idx : Nat
  /-- `POLLCNT` (R28) -/
  pollcnt : Nat
  /-- `EXPLEN` (R28) -/
  explen : Nat
  -- (c) frame buffer
  /-- `FB` (R40) -/
  fb : Memory
  /-- `FBLEN` (R41) -/
  fblen : Nat
  /-- `FBK` (R42) -/
  fbk : BufKind
  -- (d) snapshot registers
  /-- `PRI` (R31) -/
  pri : Snap
  /-- `CHK` (R32) -/
  chk : Snap
  /-- `ALM` (R33) -/
  alm : AlarmSnap
  -- (e) time registers
  /-- `RTCW[0..3]` (R35) -/
  rtcw : ClockWords
  /-- `HALF` (R36) -/
  half : Bool
  -- (f) alarm registers
  /-- `ALRMW[0..3]` (R37) -/
  alrmw : ClockWords
  -- (g) control registers
  /-- `ALCFG`: bit 7 `ALRMEN`, bits 6:4 reserved, bits 3:0 `AMASK` (R38) -/
  alcfg : BitVec 8
  /-- `RTCCTL`, whose one bit is `WREN` (R39) -/
  wren : Bool
  /-- `PROT` (R44) -/
  prot : Byte
  /-- `KEYST`: 0 locked, 1 first key seen, 2 unlocked (R44) -/
  keyst : BitVec 2
  -- (h) flags
  /-- `ALMIF` (R45) -/
  almif : Bool
  /-- `IRQINH` (R46) -/
  irqinh : Bool
  -- the model's own fields
  /-- the parameters (R9), written by no step (log 4) -/
  params : Params
  /-- epoch of the unspecified buffer bytes and length: how often they have become unspecified anew
  (log 6, 7) -/
  freeCount : Nat
  /-- bytes handed to the transport, oldest first (R84; log 8) -/
  tx : List Byte
  /-- scripted answers of the transport to the next polls (R85; log 8) -/
  rx : List (Option Byte)
  /-- polls made so far (log 8) -/
  rxCount : Nat
  /-- the host's command word at the port, an input (R20, R88) -/
  portCmd : CmdWord
  /-- the host's payload operand at the port, an input (R20, R88) -/
  portPl : List Byte
  /-- the events still to come, first first (R12, R286; log 1) -/
  agenda : List Event
deriving DecidableEq, Repr

/-- Why the machine stops. No run from a well-formed state meets one. -/
inductive Fault where
  /-- Raised by an access of a micro-step to a buffer index at or above `FB_SIZE`, which does not
  exist (R40). Safe: no reachable state has such an index (log 14). -/
  | fbRange
  /-- Raised by a micro-step whose number the command in progress does not have (R27). Safe: no
  reachable state has such a number (log 13). -/
  | noSuchMicroStep
deriving DecidableEq, Repr

/-- Why an input or an instruction has no meaning. -/
inductive Refusal where
  /-- Raised by an arm of exec that has no meaning yet. Safe. No arm raises it. -/
  | notModelled (mnemonic : String)
  /-- Raised where an issued command's payload operand is longer than `FB_SIZE`: by R100 that is no
  command. Safe (log 15). -/
  | payloadTooLong
deriving DecidableEq, Repr

/-- `PRI` and `CHK` after reset (R60). -/
def resetSnap : Snap := ⟨0x00#8, 0x00#8, 0x00#8, 0x06#8, 0x01#8, 0x01#8, 0x00#8⟩

/-- `ALM` after reset (R60). -/
def resetAlarm : AlarmSnap := ⟨0x00#8, 0x00#8, 0x00#8, 0x01#8, 0x01#8, 0x00#8⟩

/-- `ALRMW` after reset (R60). -/
def resetAlarmWords : ClockWords := ⟨0x0000#16, 0x0600#16, 0x0101#16, 0x0000#16⟩

/-- The state right after reset of a block with parameters `P`: the table of R60. No buffer byte is
specified. -/
def State.resetOf (P : Params) : State where
  st := .ok
  w := false
  r := 0#32
  rb := []
  seq := .idle
  idx := 0
  pollcnt := 0
  explen := 0
  fb := []
  fblen := 0
  fbk := .empty
  pri := resetSnap
  chk := resetSnap
  alm := resetAlarm
  rtcw := P.resetTime
  half := P.resetHalf
  alrmw := resetAlarmWords
  alcfg := 0x00#8
  wren := false
  prot := 0x00#8
  keyst := 0#2
  almif := false
  irqinh := false
  params := P
  freeCount := 0
  tx := []
  rx := []
  rxCount := 0
  portCmd := 0#48
  portPl := []
  agenda := []

/-- The machine right after reset, with the default parameters (R9, R60). -/
def State.reset : State := State.resetOf Params.default

end Sys2Proof.Machine
end

