-- ==== Sys2Proof/Machine/Flags.lean ====
section
/-! DEFINITION. Codes and flags: the status and tag codes (R42, R260), the fields of `ALCFG` (R38),
the wrap rules behind the flag `W` (R218, R222 to R227), and the alarm comparator (R278). -/

namespace Sys2Proof.Machine

/-- The code of a status in `ST` (R260). -/
def Status.code : Status → BitVec 4
  | .ok => 0#4
  | .timeout => 1#4
  | .checksumMismatch => 2#4
  | .tornRead => 3#4
  | .badArg => 4#4
  | .notValid => 5#4
  | .illegalOp => 6#4

/-- The value of a tag in `FBK` (R42). -/
def BufKind.code : BufKind → BitVec 3
  | .empty => 0#3
  | .raw => 1#3
  | .good => 2#3
  | .bad => 3#3
  | .unspec => 4#3

/-- `ALCFG.ALRMEN`, bit 7. -/
def alrmen (cfg : BitVec 8) : Bool := cfg.getLsbD 7

/-- `ALCFG.AMASK`, bits 3:0. -/
def amask (cfg : BitVec 8) : BitVec 4 := cfg.extractLsb' 0 4

/-- Write `ALRMEN` alone; the reserved bits are never written (R38). -/
def setAlrmen (cfg : BitVec 8) (on : Bool) : BitVec 8 :=
  (cfg &&& 0x7F#8) ||| (if on then 0x80#8 else 0x00#8)

/-- Write `AMASK` alone. -/
def setAmask (cfg : BitVec 8) (m : BitVec 4) : BitVec 8 :=
  (cfg &&& 0xF0#8) ||| m.setWidth 8

/-- Seconds and minutes: 60 and above wrap to 0 (R222, R223). The value stored and whether it
wrapped. -/
def wrap60 (v : Nat) : Nat × Bool := if 60 ≤ v then (0, true) else (v, false)

/-- Hours: 24 and above wrap to 0 (R224). -/
def wrap24 (v : Nat) : Nat × Bool := if 24 ≤ v then (0, true) else (v, false)

/-- Month: below 1 wraps to 12, above 12 to 1 (R225). -/
def wrapMonth (v : Nat) : Nat × Bool :=
  if v < 1 then (12, true) else if 12 < v then (1, true) else (v, false)

/-- Day: 0 wraps to the last day, a day above it to 1 (R226). -/
def wrapDay (ld v : Nat) : Nat × Bool :=
  if v = 0 then (ld, true) else if ld < v then (1, true) else (v, false)

/-- Year: 100 and above wrap to 0 (R227). -/
def wrap100 (v : Nat) : Nat × Bool := if 100 ≤ v then (0, true) else (v, false)

/-- The comparator `match(edge)` (R278): `t` the time registers as just updated, `a` the alarm
registers, by the ten granularities of `AMASK`. A mask of 10 to 15 is never stored and R278 has no
row for it: a free value (log 10). -/
def alarmMatch (mask : BitVec 4) (edge : Bool) (t a : ClockWords) : Bool :=
  let T := wordsSnap t
  let A := wordsSnap a
  let hms := edge && T.sec == A.sec && T.min == A.min && T.hour == A.hour
  match mask with
  | 0#4 => true
  | 1#4 => edge
  | 2#4 => edge && units T.sec == units A.sec
  | 3#4 => edge && T.sec == A.sec
  | 4#4 => edge && T.sec == A.sec && units T.min == units A.min
  | 5#4 => edge && T.sec == A.sec && T.min == A.min
  | 6#4 => hms
  | 7#4 => hms && T.weekday == A.weekday
  | 8#4 => hms && T.day == A.day
  | 9#4 => hms && T.day == A.day && T.month == A.month
  | m => Config.matchBeyond m edge

end Sys2Proof.Machine
end

