-- ==== Sys2Proof/Machine/Ops.lean ====
section
/-! DEFINITION. The named operations on State: the buffer, the ends of a command, the sequencer, the
transport, the time registers and their lock, the alarm, RESET. -/

namespace Sys2Proof.Machine

/-- The outcome of a step of this machine. -/
abbrev Result := Host.Outcome State Fault Refusal

/-! ## The frame buffer (R40 to R43, R50) -/

/-- The byte specified at an index, if one is. -/
def Memory.get? : Memory → Nat → Option Byte
  | [], _ => none
  | (j, b) :: m, i => if i = j then some b else Memory.get? m i

/-- Specify one byte, keeping the canonical form. -/
def Memory.set : Memory → Nat → Byte → Memory
  | [], i, b => [(i, b)]
  | (j, v) :: m, i, b =>
    if i < j then (i, b) :: (j, v) :: m
    else if i = j then (i, b) :: m
    else (j, v) :: Memory.set m i b

/-- `MemWrite(FB, i, n, bs)`: the bytes at consecutive indices from `i`. -/
def Memory.setList : Memory → Nat → List Byte → Memory
  | m, _, [] => m
  | m, i, b :: bs => Memory.setList (Memory.set m i b) (i + 1) bs

/-- The canonical form: indices strictly rising, all inside a buffer of `size` bytes. An unlisted
index reads as unspecified, which no listed byte equals. -/
abbrev Memory.wf (size : Nat) (m : Memory) : Prop :=
  m.Pairwise (fun x y => x.1 < y.1) ∧ ∀ c ∈ m, c.1 < size

/-- `FB[i]`: the byte specified there, or the free value of the present epoch, which no later step
shares while the tag is UNSPEC (R43, `State.renewFree`; log 6). -/
def State.fbByte (s : State) (i : Nat) : Byte :=
  match Memory.get? s.fb i with
  | some b => b
  | none => Config.freeByte s.freeCount i

/-- `MemRead(FB, off, n)`, the bytes alone. -/
def State.fbBytes (s : State) (off n : Nat) : List Byte :=
  (List.range n).map (fun j => s.fbByte (off + j))

/-- `MemRead(FB, off, n)` and what is done with the bytes; an index at or above `FB_SIZE` does not
exist (log 14). -/
def State.readFb (s : State) (off n : Nat) (cont : List Byte → Result) : Result :=
  if off + n ≤ s.params.fbSize then cont (s.fbBytes off n) else .fault .fbRange

/-- `MemWrite(FB, off, len(bs), bs)` and what is done after it. -/
def State.writeFb (s : State) (off : Nat) (bs : List Byte) (cont : State → Result) : Result :=
  if off + bs.length ≤ s.params.fbSize then cont { s with fb := Memory.setList s.fb off bs }
  else .fault .fbRange

/-- A frame becomes the buffer's content from index 0: `FB`, `FBLEN`, `FBK` (R42). -/
def State.loadFb (s : State) (bs : List Byte) (kind : BufKind) (cont : State → Result) : Result :=
  s.writeFb 0 bs fun t => cont { t with fblen := bs.length, fbk := kind }

/-- `havoc FB[0..FB_SIZE); havoc FBLEN` (R185): no byte is specified any more, in a fresh epoch, and
the length is a free value within the bound of R41 (log 6, log 7). -/
def State.havocFb (s : State) : State :=
  { s with
    fb := []
    freeCount := s.freeCount + 1
    fblen := min (Config.freeLen (s.freeCount + 1)) s.params.fbSize }

/-- "Two reads may not be assumed equal" (R43): while the tag is UNSPEC what is unspecified is
unspecified anew, in a fresh epoch, the length within the bound of R41. Every step of the machine does
this first, and so does every poll (log 6, log 7). With any other tag nothing changes. -/
def State.renewFree (s : State) : State :=
  { s with
    freeCount := if s.fbk = .unspec then s.freeCount + 1 else s.freeCount
    fblen :=
      if s.fbk = .unspec then min (Config.freeLen (s.freeCount + 1)) s.params.fbSize else s.fblen }

/-! ## The end of a command (R11, R27, R101, R260, R261) -/

/-- `done(R = r, rb = rb, W = w)`: status OK, and the sequencer is idle again (R11, R27). -/
def State.done (s : State) (r : Word) (rb : List Byte) (w : Bool) : State :=
  { s with st := .ok, w := w, r := r, rb := rb, seq := .idle }

/-- `raise E`: the ONE operation by which a command fails (R260, R261). The block takes no trap
(R287): the status is recorded, `R = 0`, `W = 0`, `RB` empty, the sequencer is idle again, and
nothing else changes. -/
def State.raise (s : State) (e : Status) : State :=
  { s with st := e, w := false, r := 0#32, rb := [], seq := .idle }

/-! ## The sequencer (R27) -/

/-- Accept the command at the port: `SEQ <- Busy(cmd, pl, 1)`; the operands are latched (R27, R88). -/
def State.accept (s : State) : State := { s with seq := .busy s.portCmd s.portPl 1 }

/-- The next micro-step is `k`, of the same command. -/
def State.goto (s : State) (k : Nat) : State :=
  match s.seq with
  | .busy cmd pl _ => { s with seq := .busy cmd pl k }
  | .idle => s

/-! ## The transport (spec/20_memory.md R84, R85) -/

/-- `TxByte(b)`: always completes (R84). -/
def State.txByte (s : State) (b : Byte) : State := { s with tx := s.tx ++ [b] }

/-- The answer `RxPoll()` gives now: the next scripted one, else the oracle's (R85; log 8). -/
def State.rxNext (s : State) : Option Byte :=
  match s.rx with
  | x :: _ => x
  | [] => Config.rxAnswer s.rxCount

/-- `RxPoll()` consumes its answer (R79, R85). -/
def State.rxAdvance (s : State) : State := { s with rx := s.rx.tail, rxCount := s.rxCount + 1 }

/-! ## The time registers and their lock (R35, R39, R44) -/

/-- A write of a byte to the protection register and what it does to `KEYST` (R44). -/
def State.writeProt (s : State) (v : Byte) : State :=
  { s with
    prot := v
    keyst :=
      if v = s.params.key1 ∧ s.keyst = 0#2 then 1#2
      else if v = s.params.key2 ∧ s.keyst = 1#2 then 2#2
      else 0#2 }

/-- An attempt to set `WREN`: it succeeds only when unlocked, and locks in any case (R39, R44). -/
def State.setWren (s : State) : State :=
  { s with wren := s.wren || s.keyst == 2#2, keyst := 0#2 }

/-- The host's path to `RTCW`: a whole word, only while `WREN = 1` (R35, R39). -/
def State.writeRtcw (s : State) (i : Fin 4) (v : Half) : State :=
  if s.wren then { s with rtcw := writeWord s.rtcw i v } else s

/-- A write of a whole alarm word (R37). -/
def State.writeAlrmw (s : State) (i : Fin 4) (v : Half) : State :=
  { s with alrmw := writeWord s.alrmw i v }

/-! ## RESET (R60, R310 to R312) -/

/-- RESET: every piece of the block's state takes its value of R60. The transport and its waiting
answers, the inputs, the parameters and the agenda are not the block's and stay (R312); the buffer's
bytes are unspecified anew (log 6, log 22). -/
def State.resetBlock (s : State) : State :=
  { State.resetOf s.params with
    freeCount := s.freeCount + 1
    tx := s.tx
    rx := s.rx
    rxCount := s.rxCount
    portCmd := s.portCmd
    portPl := s.portPl
    agenda := s.agenda }

end Sys2Proof.Machine
end

