-- ==== Sys2Proof/Machine/Clock.lean ====
section
/-! DEFINITION. The running clock and the alarm interrupt (spec/60_exceptions.md section 2): the tick
HTICK, the comparator's effect, and the acknowledge ALMACK. They are events, not commands, and may
fall between any two micro-steps. -/

namespace Sys2Proof.Machine

/-- The time as seven numbers, weekday included, while it is advanced (R275). -/
structure TimeNum where
  s : Nat
  mi : Nat
  h : Nat
  wd : Nat
  d : Nat
  mo : Nat
  y : Nat
deriving DecidableEq, Repr

/-- The fields unpacked and converted with `bcd2bin` (R275). -/
def timeOf (t : ClockWords) : TimeNum where
  s := bcd2bin (wordsField t .sec)
  mi := bcd2bin (wordsField t .min)
  h := bcd2bin (wordsField t .hour)
  wd := bcd2bin (wordsField t .weekday)
  d := bcd2bin (wordsField t .day)
  mo := bcd2bin (wordsField t .month)
  y := bcd2bin (wordsField t .year)

/-- The carry into the date at midnight: a day at or beyond the month's last goes to day 1 of the
next month, the year after 99 is 0 (R275). -/
def nextDate (t : TimeNum) : TimeNum :=
  if lastday t.y t.mo ≤ t.d then
    if 12 < t.mo + 1 then { t with d := 1, mo := 1, y := if 99 < t.y + 1 then 0 else t.y + 1 }
    else { t with d := 1, mo := t.mo + 1 }
  else { t with d := t.d + 1 }

/-- The carry into the hours, and at midnight into weekday and date (R275). -/
def nextHour (t : TimeNum) : TimeNum :=
  if 24 ≤ t.h + 1 then nextDate { t with h := 0, wd := (t.wd + 1) % 7 } else { t with h := t.h + 1 }

/-- The carry into the minutes (R275). -/
def nextMinute (t : TimeNum) : TimeNum :=
  if 60 ≤ t.mi + 1 then nextHour { t with mi := 0 } else { t with mi := t.mi + 1 }

/-- One second later (R275). -/
def nextSecond (t : TimeNum) : TimeNum :=
  if 60 ≤ t.s + 1 then nextMinute { t with s := 0 } else { t with s := t.s + 1 }

/-- The four words written back (R275). -/
def wordsOf (t : TimeNum) : ClockWords where
  w0 := packWord (bin2bcd t.mi) (bin2bcd t.s)
  w1 := packWord (bin2bcd t.wd) (bin2bcd t.h)
  w2 := packWord (bin2bcd t.mo) (bin2bcd t.d)
  w3 := packWord 0x00#8 (bin2bcd t.y)

/-- The time registers one second later. -/
def advanceWords (t : ClockWords) : ClockWords := wordsOf (nextSecond (timeOf t))

/-- The effect of a match: `ALMIF <- 1`, `ALRMEN <- 0`; with `ALRMEN = 0` nothing is compared
(R279). -/
def State.compareAlarm (s : State) (edge : Bool) : State :=
  if alrmen s.alcfg && alarmMatch (amask s.alcfg) edge s.rtcw s.alrmw then
    { s with almif := true, alcfg := setAlrmen s.alcfg false }
  else s

/-- HTICK (R275): the phase toggles; when it returns to 0 a second has passed and the words advance,
whatever `WREN` and `IRQINH` are; then the comparator looks. -/
def State.htick (s : State) : State :=
  if s.half then
    ({ s with half := false, rtcw := advanceWords s.rtcw }).compareAlarm true
  else ({ s with half := true }).compareAlarm false

/-- ALMACK is enabled exactly when `ALMIF = 1` and `IRQINH = 0` (R282). -/
def State.almackEnabled (s : State) : Bool := s.almif && !s.irqinh

/-- ALMACK (R282): the interrupt is acknowledged and the alarm re-armed in one step. Scheduled while
it is not enabled, it does not occur (log 17). -/
def State.almack (s : State) : State :=
  if s.almackEnabled then { s with almif := false, alcfg := setAlrmen s.alcfg true } else s

end Sys2Proof.Machine
end

