-- ==== Sys2Proof/Machine/Operands.lean ====
section
/-! DEFINITION. Operand forms: the payload window of the decoders (R161), the value forms they return
(R73, R162 to R166), and the target of a setter (R221). -/

namespace Sys2Proof.Machine

/-- `pay(off, w)` (R161), and what is done with the bytes: the tag is tested first, then the window
`FB[3..FBLEN-2)`, in naturals, so a large offset is refused and never wraps. -/
def State.payload (s : State) (off w : Nat) (cont : List Byte → Result) : Result :=
  if s.fbk ≠ .good then .next (s.raise .notValid)
  else if s.fblen < 5 ∨ 3 + off + w > s.fblen - 2 then .next (s.raise .badArg)
  else s.readFb (3 + off) w cont

/-- Four bytes, most significant first, as 32 bits. -/
def word32 (b3 b2 b1 b0 : Byte) : Word :=
  (b3.setWidth 32 <<< 24) ||| (b2.setWidth 32 <<< 16) ||| (b1.setWidth 32 <<< 8) ||| b0.setWidth 32

/-- `Int32BE`: straight big-endian (R73, R164). -/
def int32BE (p : List Byte) : Word :=
  word32 (p.getD 0 0#8) (p.getD 1 0#8) (p.getD 2 0#8) (p.getD 3 0#8)

/-- `Float32Swapped` under a permutation of the received bytes (R73, R162). -/
def float32Swapped (k : Perm4) (p : List Byte) : Word :=
  word32 (p.getD k.k0 0#8) (p.getD k.k1 0#8) (p.getD k.k2 0#8) (p.getD k.k3 0#8)

/-- `UInt16BE`, zero extended (R73, R166). -/
def uint16BE (p : List Byte) : Word :=
  (((p.getD 0 0#8).setWidth 16 <<< 8) ||| (p.getD 1 0#8).setWidth 16 : BitVec 16).setWidth 32

/-- The number of bytes before the first `0x00`, or all of them (R168). -/
def strLen : List Byte → Nat
  | [] => 0
  | b :: bs => if b = 0x00#8 then 0 else strLen bs + 1

/-- What a setter returns in `R`: `(bcd << 8) | bin` (R221). -/
def setterResult (x : Nat) : Word :=
  ((bin2bcd x).setWidth 32 <<< 8) ||| BitVec.ofNat 32 x

/-- What SETYEAR returns in `R`: bit 16 tells that the day was adjusted (R227). -/
def yearResult (adj : Bool) (x : Nat) : Word :=
  ((if adj then 1#32 else 0#32) <<< 16) ||| setterResult x

/-- The shape of the setters of one field (R221 to R225): store the wrapped value, in BCD, in the
target snapshot, `PRI` or `ALM` and never both; any other target is refused. -/
def State.setField (s : State) (a : Byte) (xw : Nat × Bool)
    (inPri : Snap → Byte → Snap) (inAlm : AlarmSnap → Byte → AlarmSnap) : State :=
  if a = 0#8 then
    { s with pri := inPri s.pri (bin2bcd xw.1) }.done (setterResult xw.1) [] xw.2
  else if a = 1#8 then
    { s with alm := inAlm s.alm (bin2bcd xw.1) }.done (setterResult xw.1) [] xw.2
  else s.raise .badArg

end Sys2Proof.Machine
end

