-- ==== Sys2Proof/Machine/ClockKeeper.lean ====
section
/-! DEFINITION. Unit U4 ClockKeeper (spec/43_clockkeeper.md). A multi-step command's meaning is one
atomic step per call: from Idle it accepts the command, from `Busy(cmd, pl, k)` it performs
micro-step `k` (R12, R27; log 3). -/

namespace Sys2Proof.Machine

/-! ## Reading the clock -/

/-- One step of the first snapshot: read one field of the time registers into `PRI` (R210). -/
def State.readPri (s : State) (f : Field) : State :=
  { s with pri := snapSet s.pri f (wordsField s.rtcw f) }

/-- One step of the second snapshot, into `CHK` (R210). -/
def State.readChk (s : State) (f : Field) : State :=
  { s with chk := snapSet s.chk f (wordsField s.rtcw f) }

/-- The end of CKREAD: the two snapshots agree in all seven bytes, or the read was torn (R210). -/
def State.endRead (s : State) : State :=
  if s.pri = s.chk then s.done 7#32 (snapBytes s.pri) false else s.raise .tornRead

/-- CKREAD, 14 micro-steps (R210). -/
def execCkread (s : State) : Result :=
  match s.seq with
  | .idle => .next s.accept
  | .busy _ _ k =>
    match k with
    | 1 => .next ((s.readPri .sec).goto 2)
    | 2 => .next ((s.readPri .min).goto 3)
    | 3 => .next ((s.readPri .hour).goto 4)
    | 4 => .next ((s.readPri .weekday).goto 5)
    | 5 => .next ((s.readPri .day).goto 6)
    | 6 => .next ((s.readPri .month).goto 7)
    | 7 => .next ((s.readPri .year).goto 8)
    | 8 => .next ((s.readChk .sec).goto 9)
    | 9 => .next ((s.readChk .min).goto 10)
    | 10 => .next ((s.readChk .hour).goto 11)
    | 11 => .next ((s.readChk .weekday).goto 12)
    | 12 => .next ((s.readChk .day).goto 13)
    | 13 => .next ((s.readChk .month).goto 14)
    | 14 => .next (s.readChk .year).endRead
    | _ => .fault .noSuchMicroStep

/-! ## Writing the clock -/

/-- CKCOMMIT, 10 micro-steps (R214). -/
def execCkcommit (s : State) : Result :=
  match s.seq with
  | .idle => .next s.accept
  | .busy _ _ k =>
    match k with
    | 1 => .next ({ s with
        pri := { s.pri with weekday := weekdayByte s.pri.year s.pri.month s.pri.day }
        irqinh := true }.goto 2)
    | 2 => .next ((s.writeProt s.params.key1).goto 3)
    | 3 => .next ((s.writeProt s.params.key2).goto 4)
    | 4 => .next (s.setWren.goto 5)
    | 5 => .next ({ s with irqinh := false }.goto 6)
    | 6 => .next ((s.writeRtcw 3 (packWord 0x00#8 s.pri.year)).goto 7)
    | 7 => .next ((s.writeRtcw 2 (packWord s.pri.month s.pri.day)).goto 8)
    | 8 => .next ((s.writeRtcw 1 (packWord s.pri.weekday s.pri.hour)).goto 9)
    | 9 => .next ((s.writeRtcw 0 (packWord s.pri.min s.pri.sec)).goto 10)
    | 10 => .next ({ s with wren := false }.done 0#32 [] false)
    | _ => .fault .noSuchMicroStep

/-! ## The weekday -/

/-- The domain test of WKDAY: the day against 31 only (R220). -/
def wkdayInDomain (y m d : Byte) : Bool :=
  (y.toNat ≤ 99 : Bool) && (1 ≤ m.toNat : Bool) && (m.toNat ≤ 12 : Bool) &&
  (1 ≤ d.toNat : Bool) && (d.toNat ≤ 31 : Bool)

/-- WKDAY, operands binary (R220). -/
def execWkday (y m d : Byte) (s : State) : Result :=
  .next (if wkdayInDomain y m d then
      s.done (BitVec.ofNat 32 (weekday y.toNat m.toNat d.toNat)) [] false
    else s.raise .badArg)

/-! ## The setters (R218, R221) -/

/-- SETSEC (R222). -/
def execSetsec (a v : Byte) (s : State) : Result :=
  .next (s.setField a (wrap60 v.toNat) (fun p b => { p with sec := b }) (fun p b => { p with sec := b }))

/-- SETMIN (R223). -/
def execSetmin (a v : Byte) (s : State) : Result :=
  .next (s.setField a (wrap60 v.toNat) (fun p b => { p with min := b }) (fun p b => { p with min := b }))

/-- SETHOUR (R224). -/
def execSethour (a v : Byte) (s : State) : Result :=
  .next (s.setField a (wrap24 v.toNat) (fun p b => { p with hour := b }) (fun p b => { p with hour := b }))

/-- SETMON (R225): the stored day is not looked at. -/
def execSetmon (a v : Byte) (s : State) : Result :=
  .next (s.setField a (wrapMonth v.toNat) (fun p b => { p with month := b }) (fun p b => { p with month := b }))

/-- The last day of the month now stored in the target snapshot (R226). -/
def State.targetLastday (s : State) (a : Byte) : Nat :=
  if a = 0#8 then lastday (bcd2bin s.pri.year) (bcd2bin s.pri.month)
  else lastday (bcd2bin s.alm.year) (bcd2bin s.alm.month)

/-- SETDAY (R226). -/
def execSetday (a v : Byte) (s : State) : Result :=
  .next (s.setField a (wrapDay (s.targetLastday a) v.toNat)
    (fun p b => { p with day := b }) (fun p b => { p with day := b }))

/-- The re-validation of SETYEAR: is the stored day above the last day of the stored month in the new
year (R227). -/
def dayAdjusted (year : Nat) (month day : Byte) : Bool :=
  lastday year (bcd2bin month) < bcd2bin day

/-- SETYEAR (R227). -/
def execSetyear (a v : Byte) (s : State) : Result :=
  let xw := wrap100 v.toNat
  if a = 0#8 then
    let adj := dayAdjusted xw.1 s.pri.month s.pri.day
    .next ({ s with pri := { s.pri with
      year := bin2bcd xw.1
      day := if adj then 0x01#8 else s.pri.day } }.done (yearResult adj xw.1) [] (xw.2 || adj))
  else if a = 1#8 then
    let adj := dayAdjusted xw.1 s.alm.month s.alm.day
    .next ({ s with alm := { s.alm with
      year := bin2bcd xw.1
      day := if adj then 0x01#8 else s.alm.day } }.done (yearResult adj xw.1) [] (xw.2 || adj))
  else .next (s.raise .badArg)

/-! ## The alarm registers -/

/-- SETALM, 5 micro-steps (R230). -/
def execSetalm (s : State) : Result :=
  match s.seq with
  | .idle => .next s.accept
  | .busy _ _ k =>
    match k with
    | 1 => .next ({ s with alcfg := setAlrmen s.alcfg false }.goto 2)
    | 2 => .next ((s.writeAlrmw 3 (packWord 0x00#8 s.alm.year)).goto 3)
    | 3 => .next ((s.writeAlrmw 2 (packWord s.alm.month s.alm.day)).goto 4)
    | 4 => .next ((s.writeAlrmw 1
        (packWord (weekdayByte s.alm.year s.alm.month s.alm.day) s.alm.hour)).goto 5)
    | 5 => .next ((s.writeAlrmw 0 (packWord s.alm.min s.alm.sec)).done 0#32 [] false)
    | _ => .fault .noSuchMicroStep

/-- ARMALM, 2 micro-steps (R232). -/
def execArmalm (m : BitVec 4) (s : State) : Result :=
  match s.seq with
  | .idle => .next s.accept
  | .busy _ _ k =>
    match k with
    | 1 => .next (if 9 < m.toNat then s.raise .badArg else { s with alcfg := setAmask s.alcfg m }.goto 2)
    | 2 => .next ({ s with alcfg := setAlrmen s.alcfg true }.done 0#32 [] false)
    | _ => .fault .noSuchMicroStep

/-! ## Reading state back -/

/-- RDSNAP (R236). -/
def execRdsnap (a : Byte) (s : State) : Result :=
  .next (
    if a = 0#8 then s.done 7#32 (snapBytes s.pri) false
    else if a = 1#8 then s.done 6#32 (alarmBytes s.alm) false
    else if a = 2#8 then s.done 7#32 (snapBytes s.chk) false
    else s.raise .badArg)

/-- The length field of RDSTAT: 0 while the buffer is unspecified (R238). -/
def State.statusLength (s : State) : Half :=
  if s.fbk = .unspec then 0#16 else BitVec.ofNat 16 s.fblen

/-- A 1-bit field of a word at bit `n`. -/
def bitAt (n : Nat) (x : Bool) : Word := (BitVec.ofBool x).setWidth 32 <<< n

/-- The word RDSTAT returns, from bit 0 up; bits 15:14 are 0 (R238). -/
def State.statusWord (s : State) : Word :=
  s.fbk.code.setWidth 32 |||
  bitAt 3 s.almif |||
  bitAt 4 (alrmen s.alcfg) |||
  ((amask s.alcfg).setWidth 32 <<< 5) |||
  bitAt 9 s.wren |||
  bitAt 10 s.half |||
  bitAt 11 s.irqinh |||
  (s.keyst.setWidth 32 <<< 12) |||
  (s.statusLength.setWidth 32 <<< 16)

/-- RDSTAT (R238). -/
def execRdstat (s : State) : Result := .next (s.done s.statusWord [] false)

end Sys2Proof.Machine
end

