-- ==== Sys2Proof/Machine/FrameCodec.lean ====
section
/-! DEFINITION. Unit U1 FrameCodec (spec/40_framecodec.md): BLDRD, BLDWR, SEAL, VERIFY, LDFB, RDFB,
CRC16. Each is one atomic step. -/

namespace Sys2Proof.Machine

/-- A frame becomes the buffer's content, verified, and is returned with its length
(R134, R136, R138). -/
def State.buildFrame (s : State) (f : List Byte) : Result :=
  s.loadFb f .good fun t => .next (t.done (BitVec.ofNat 32 f.length) f false)

/-- BLDRD (R134). -/
def execBldrd (a : Byte) (b c : Half) (s : State) : Result :=
  s.buildFrame (readRequest a b c)

/-- BLDWR (R136). -/
def execBldwr (a : Byte) (b : Half) (pl : List Byte) (s : State) : Result :=
  if writeRequestFits s.params pl then s.buildFrame (writeRequest s.params.wrByteCount a b pl)
  else .next (s.raise .badArg)

/-- SEAL (R138). -/
def execSeal (pl : List Byte) (s : State) : Result :=
  if pl.length + 2 > s.params.fbSize then .next (s.raise .badArg) else s.buildFrame (frame pl)

/-- VERIFY (R140): a false result is no failure. -/
def execVerify (s : State) : Result :=
  if s.fbk = .empty ∨ s.fbk = .unspec then .next (s.raise .notValid)
  else s.readFb 0 s.fblen fun f =>
    .next ({ s with fbk := if verifyFrame f then .good else .bad }.done
      (if verifyFrame f then 1#32 else 0#32) [] false)

/-- LDFB (R142). -/
def execLdfb (pl : List Byte) (s : State) : Result :=
  s.loadFb pl .raw fun t => .next (t.done (BitVec.ofNat 32 pl.length) [] false)

/-- RDFB (R143). -/
def execRdfb (s : State) : Result :=
  if s.fbk = .unspec then .next (s.raise .notValid)
  else s.readFb 0 s.fblen fun f => .next (s.done (BitVec.ofNat 32 s.fblen) f false)

/-- CRC16 (R132). -/
def execCrc16 (pl : List Byte) (s : State) : Result :=
  .next (s.done ((crc16 pl).setWidth 32) [] false)

end Sys2Proof.Machine
end

