-- ==== Sys2Proof/Machine/ModbusClient.lean ====
section
/-! DEFINITION. Unit U3 ModbusClient (spec/42_modbus_client.md): the transaction sequence, one
definition per numbered step, and RDHOLD, WRMULT, UNLOCK over it. One call of a meaning is one atomic
step (R12): from Idle it accepts the command and makes the operand checks of step 0; from
`Busy(cmd, pl, k)` it performs step `k` once (log 3). -/

namespace Sys2Proof.Machine

/-- Step 1, build (R182). -/
def State.xactBuild (s : State) (f : List Byte) : Result :=
  s.loadFb f .good fun t => .next ({ t with idx := 0 }.goto 2)

/-- Step 2, transmit, "repeated while IDX < FBLEN": one byte (R184). -/
def State.xactSend (s : State) : Result :=
  if s.idx < s.fblen then
    s.readFb s.idx 1 fun _ =>
      .next (({ s with idx := s.idx + 1 }.txByte (s.fbByte s.idx)).goto
        (if s.idx + 1 < s.fblen then 2 else 3))
  else .next (s.goto 3)

/-- Step 3, set-up of the reception (R185). From here on the tag is UNSPEC, so by R43 every byte of the
buffer and its length are unspecified: free values of a fresh epoch (log 21). -/
def State.xactSetup (s : State) (explen : Nat) : Result :=
  .next ({ s.havocFb with
    fbk := .unspec
    idx := 0
    explen := explen
    pollcnt := s.params.pollBudget }.goto 4)

/-- Step 4 when the poll answers a byte: store it; the last one leads to step 5, any other renews the
budget (R185). -/
def State.xactByte (s : State) (b : Byte) : Result :=
  s.writeFb s.idx [b] fun t =>
    if t.idx + 1 = t.explen then .next ({ t with idx := t.idx + 1 }.goto 5)
    else .next { t with idx := t.idx + 1, pollcnt := t.params.pollBudget }

/-- Step 4 when the poll answers nothing: the budget runs down, and running out is `Timeout`, after
which the buffer and its length are unspecified (R185). -/
def State.xactNone (s : State) : Result :=
  if s.pollcnt - 1 = 0 then .next ({ s with pollcnt := s.pollcnt - 1 }.havocFb.raise .timeout)
  else .next { s with pollcnt := s.pollcnt - 1 }

/-- Step 4, one poll (R185); what is not yet received is unspecified anew (R43). -/
def State.xactPoll (s : State) : Result :=
  match s.rxNext with
  | some b => s.renewFree.rxAdvance.xactByte b
  | none => s.renewFree.rxAdvance.xactNone

/-- Step 5, check (R186): `success` ends the command when the checksum is right. -/
def State.xactCheck (s : State) (success : State → Result) : Result :=
  s.readFb 0 s.explen fun f =>
    if verifyFrame f then success { s with fblen := s.explen, fbk := .good }
    else .next ({ s with fblen := s.explen, fbk := .bad }.raise .checksumMismatch)

/-- `xact(f, explen)` at step `k` (R180, R202). -/
def State.xact (s : State) (k : Nat) (f : List Byte) (explen : Nat) (success : State → Result) :
    Result :=
  match k with
  | 1 => s.xactBuild f
  | 2 => s.xactSend
  | 3 => s.xactSetup explen
  | 4 => s.xactPoll
  | 5 => s.xactCheck success
  | _ => .fault .noSuchMicroStep

/-- The length of the response RDHOLD awaits (R107, R188). -/
def readRspLen (c : Half) : Nat := 5 + 2 * c.toNat

/-- RDHOLD (R188). -/
def execRdhold (a : Byte) (b c : Half) (s : State) : Result :=
  match s.seq with
  | .idle => .next (if readRspLen c > s.params.fbSize then s.raise .badArg else s.accept)
  | .busy _ _ k =>
    s.xact k (readRequest a b c) (readRspLen c) fun t =>
      t.readFb 3 (2 * c.toNat) fun p => .next (t.done (BitVec.ofNat 32 (2 * c.toNat)) p false)

/-- What WRMULT does with its operands (R190), which UNLOCK does with the parameters' (R192). -/
def State.writeMultiple (s : State) (a : Byte) (b : Half) (pl : List Byte) : Result :=
  match s.seq with
  | .idle => .next (if writeRequestFits s.params pl then s.accept else s.raise .badArg)
  | .busy _ _ k =>
    s.xact k (writeRequest s.params.wrByteCount a b pl) s.params.wrRspLen fun t =>
      .next (t.done 0#32 [] false)

/-- WRMULT (R190). -/
def execWrmult (a : Byte) (b : Half) (pl : List Byte) (s : State) : Result :=
  s.writeMultiple a b pl

/-- UNLOCK: "exactly WRMULT with a = UNLOCK_SLAVE, b = UNLOCK_ADDR, pl = UNLOCK_KEY" (R192). -/
def execUnlock (s : State) : Result :=
  s.writeMultiple s.params.unlockSlave s.params.unlockAddr s.params.unlockKey

end Sys2Proof.Machine
end

