-- ==== Sys2Proof/Machine/Transcoder.lean ====
section
/-! DEFINITION. Unit U2 Transcoder (spec/41_transcoder.md): the five decoders. Each is one atomic
step, reads the buffer and writes only the response registers. -/

namespace Sys2Proof.Machine

/-- DECF32S (R162). -/
def execDecf32s (c : Half) (s : State) : Result :=
  s.payload c.toNat 4 fun p => .next (s.done (float32Swapped s.params.f32Perm p) [] false)

/-- DECI32 (R164). -/
def execDeci32 (c : Half) (s : State) : Result :=
  s.payload c.toNat 4 fun p => .next (s.done (int32BE p) [] false)

/-- DECU16 (R166). -/
def execDecu16 (c : Half) (s : State) : Result :=
  s.payload c.toNat 2 fun p => .next (s.done (uint16BE p) [] false)

/-- DECSTR (R168): the test for a zero width comes before the tag's. -/
def execDecstr (a : Byte) (c : Half) (s : State) : Result :=
  if a = 0#8 then .next (s.raise .badArg)
  else s.payload c.toNat a.toNat fun p => .next (s.done (BitVec.ofNat 32 (strLen p)) p false)

/-- DECBCD6 (R170). -/
def execDecbcd6 (c : Half) (s : State) : Result :=
  s.payload c.toNat 6 fun p => .next (s.done (if p.all isBcd then 1#32 else 0#32) p false)

end Sys2Proof.Machine
end

