-- ==== Sys2Proof/Machine/Wire.lean ====
section
/-! DEFINITION. The four wire formats (spec/30_encoding.md R104 to R108). They are no commands: the
row stands for the passage of one frame of the format over the wire. A request frame's bytes are
handed to the transport in index order (R84); a response frame's bytes arrive and wait for `RxPoll`,
oldest first (R85). No state of the block changes, and the bytes are carried whatever they are: the
header and the checksum are examined by nobody but step 5 of a transaction (R194; log 9). -/

namespace Sys2Proof.Machine

/-- Bytes go out on the wire. -/
def State.wireOut (s : State) (bytes : List Byte) : State := { s with tx := s.tx ++ bytes }

/-- Bytes arrive from the wire: each is one answer to a later poll. -/
def State.wireIn (s : State) (bytes : List Byte) : State := { s with rx := s.rx ++ bytes.map some }

/-- REQ03 (R105). -/
def execReq03 (sl : Byte) (a n : Half) (l h : Byte) (s : State) : Result :=
  .next (s.wireOut (req03Bytes sl a n l h))

/-- REQ16 (R106). -/
def execReq16 (sl : Byte) (a n : Half) (k : Option Byte) (pl : List Byte) (l h : Byte) (s : State) : Result :=
  .next (s.wireOut (req16Bytes sl a n k pl l h))

/-- RSP03 (R107). -/
def execRsp03 (sl k : Byte) (pl : List Byte) (l h : Byte) (s : State) : Result :=
  .next (s.wireIn (rsp03Bytes sl k pl l h))

/-- RSP16 (R108). -/
def execRsp16 (body : List Byte) (l h : Byte) (s : State) : Result :=
  .next (s.wireIn (rsp16Bytes body l h))

end Sys2Proof.Machine
end

