-- ==== Sys2Proof/Machine/Dispatch.lean ====
section
/-! DEFINITION. One arm per constructor of Instr: the call of its meaning. One call is one atomic step
of the command (log 3). -/

namespace Sys2Proof.Machine

def exec (i : Instr) (s : State) : Host.Outcome State Fault Refusal :=
  match i with
  | .bldrd a b c => Sys2Proof.Machine.execBldrd a b c s
  | .bldwr a b pl => Sys2Proof.Machine.execBldwr a b pl s
  | .seal pl => Sys2Proof.Machine.execSeal pl s
  | .verify => Sys2Proof.Machine.execVerify s
  | .ldfb pl => Sys2Proof.Machine.execLdfb pl s
  | .rdfb => Sys2Proof.Machine.execRdfb s
  | .crc16 pl => Sys2Proof.Machine.execCrc16 pl s
  | .decf32s c => Sys2Proof.Machine.execDecf32s c s
  | .deci32 c => Sys2Proof.Machine.execDeci32 c s
  | .decu16 c => Sys2Proof.Machine.execDecu16 c s
  | .decstr a c => Sys2Proof.Machine.execDecstr a c s
  | .decbcd6 c => Sys2Proof.Machine.execDecbcd6 c s
  | .rdhold a b c => Sys2Proof.Machine.execRdhold a b c s
  | .wrmult a b pl => Sys2Proof.Machine.execWrmult a b pl s
  | .unlock => Sys2Proof.Machine.execUnlock s
  | .ckread => Sys2Proof.Machine.execCkread s
  | .ckcommit => Sys2Proof.Machine.execCkcommit s
  | .wkday y m d => Sys2Proof.Machine.execWkday y m d s
  | .setsec a v => Sys2Proof.Machine.execSetsec a v s
  | .setmin a v => Sys2Proof.Machine.execSetmin a v s
  | .sethour a v => Sys2Proof.Machine.execSethour a v s
  | .setday a v => Sys2Proof.Machine.execSetday a v s
  | .setmon a v => Sys2Proof.Machine.execSetmon a v s
  | .setyear a v => Sys2Proof.Machine.execSetyear a v s
  | .setalm => Sys2Proof.Machine.execSetalm s
  | .armalm m => Sys2Proof.Machine.execArmalm m s
  | .rdsnap a => Sys2Proof.Machine.execRdsnap a s
  | .rdstat => Sys2Proof.Machine.execRdstat s
  | .req03 sl a n l h => Sys2Proof.Machine.execReq03 sl a n l h s
  | .req16 sl a n k payload l h => Sys2Proof.Machine.execReq16 sl a n k payload l h s
  | .rsp03 sl k payload l h => Sys2Proof.Machine.execRsp03 sl k payload l h s
  | .rsp16 body l h => Sys2Proof.Machine.execRsp16 body l h s

end Sys2Proof.Machine
end

