-- ==== Sys2Proof/Machine/Sequencer.lean ====
section
/-! DEFINITION. The agents' moves over exec: issuing a command (R27, R100, R103), the sequencer's next
micro-step (R27), a frame on the wire, and the event the agenda puts next (R12, R82, R286; log 1). -/

namespace Sys2Proof.Machine

/-- The command port accepts a command: its word and payload stand at the port, an unlisted `op` ends
at once with `IllegalOp`, decided from `op` alone before anything else (R103 a, R262), a payload
longer than `FB_SIZE` makes no command (R100; log 15), and anything else is executed. -/
def State.issue (s : State) (cmd : CmdWord) (pl : List Byte) : Result :=
  match decodeCommand cmd pl with
  | .error _ => .next ({ s with portCmd := cmd, portPl := pl }.raise .illegalOp)
  | .ok i =>
    if payloadFits s.params pl then exec i { s with portCmd := cmd, portPl := pl }
    else .refused .payloadTooLong

/-- The sequencer's move: the next micro-step of the command in progress, decoded from the latched
word and payload (R27, R88); nothing to do while Idle (log 17). -/
def State.micro (s : State) : Result :=
  match s.seq with
  | .idle => .next s
  | .busy cmd pl _ =>
    match decodeCommand cmd pl with
    | .ok i => exec i s
    | .error _ => .next (s.raise .illegalOp)

/-- Bytes pass on the wire: a frame of a format is executed as such, and bytes that are no frame of it
are carried all the same, towards the block or away from it as the format says, for the block examines
no header and takes a frame with another function code as the bytes of the awaited response (R110,
R194; log 9, log 16). -/
def State.carry (s : State) (fmt : WireFormat) (bytes : List Byte) : Result :=
  match decodeFrame s.params.wrByteCount fmt bytes with
  | .ok i => exec i s
  | .error _ =>
    match fmt with
    | .req03 => .next (s.wireOut bytes)
    | .req16 => .next (s.wireOut bytes)
    | .rsp03 => .next (s.wireIn bytes)
    | .rsp16 => .next (s.wireIn bytes)

/-- The first event of the agenda occurs. While a command is in progress the port is closed, so a
command at the head waits and the sequencer moves (R27, R200). With an empty agenda the sequencer moves
if it is Busy, and nobody does if it is Idle (log 1). -/
def State.headEvent (s : State) : Result :=
  match s.agenda with
  | [] => s.micro
  | .micro :: rest => { s with agenda := rest }.micro
  | .htick :: rest => .next { s with agenda := rest }.htick
  | .almack :: rest => .next { s with agenda := rest }.almack
  | .reset :: rest => .next { s with agenda := rest }.resetBlock
  | .input (.wire fmt bytes) :: rest => { s with agenda := rest }.carry fmt bytes
  | .input (.command cmd pl) :: rest =>
    match s.seq with
    | .idle => { s with agenda := rest }.issue cmd pl
    | .busy _ _ _ => s.micro

/-- One atomic step: the next event, in a state where what is unspecified is so anew (R43; log 6). -/
def State.nextStep (s : State) : Result := s.renewFree.headEvent

/-- What is fetched next becomes this input: it is put first on the agenda, and for a command the
sequencer is Idle, since the port is closed while it is Busy (R27; log 2). -/
def State.withInput (s : State) (c : Coded) : State :=
  match c with
  | .command cmd pl => { s with agenda := .input (.command cmd pl) :: s.agenda, seq := .idle }
  | .wire fmt bytes => { s with agenda := .input (.wire fmt bytes) :: s.agenda }

end Sys2Proof.Machine
end

