-- ==== Sys2Proof/Machine/Step.lean ====
section
/-! DEFINITION. The step of the machine, and the placing of an instruction where it fetches next. -/

namespace Sys2Proof.Machine

/-- One atomic step of the block and its agents (R12, R286). -/
def step (s : State) : Host.Outcome State Fault Refusal := s.nextStep

/-- `s` with the instruction whose bits are `w`, numbered as the opcode table numbers them, placed so
that the very next step runs it (log 2). -/
def State.withFetchWord (s : State) (nbits w : Nat) : State :=
  s.withInput (codedOfTableWord nbits w)

end Sys2Proof.Machine
end

