-- ==== Sys2Proof/Machine/HostContract.lean ====
section
/-! DEFINITION. The host as seen from the block (spec/60_exceptions.md section 5) and its
pseudo-commands (spec/30_encoding.md R113). This is software around the block (spec/00_scope.md R6):
it puts no state into State and no step of the machine uses it; it is written down because the spec
says which sequences of commands a host issues (log 23). -/

namespace Sys2Proof.Machine

/-- The host's mode (R290). -/
inductive HostMode where
  | idle
  | sampling
  | interactive
deriving DecidableEq, Repr

/-- The host's mode and its two sticky flags (R290, R291). -/
structure HostView where
  mode : HostMode
  alarmFlag : Bool
  byteFlag : Bool
deriving DecidableEq, Repr

/-- The host starts in Idle (R290). DESIGN CHOICE: R290 gives only the mode; both flags start clear
(log 32). -/
def hostStart : HostView := ⟨.idle, false, false⟩

/-- What happens to the host (R291, R292). -/
inductive HostEvent where
  /-- the alarm handler has run (ALMACK) and sets its flag -/
  | alarmFired
  /-- the first byte of a console session has arrived -/
  | byteReceived
  /-- the Sampling sequence is complete -/
  | completion
  /-- the explicit end of a session -/
  | commandResume
  /-- the cancel byte 0x18 -/
  | cancelByte
  /-- the main loop looks at its flags -/
  | look
deriving DecidableEq, Repr

/-- The end of an interactive session: an alarm flag set meanwhile is dropped, not served (R292).
DESIGN CHOICE: one set before the session is dropped with it (log 23), and a byte flag set during the
session is kept, so that the next look of the main loop opens another session: the spec says nothing of
it (log 31). -/
def endSession (v : HostView) : HostView := { v with mode := .idle, alarmFlag := false }

/-- The main loop in Idle serves the flag whose check is coded first (R292, R298). DESIGN CHOICE: R291
does not say when the main loop clears a flag it serves; here it does so on entering the mode, so a flag
set while the host is in that mode is a new one: an AlarmFired during Sampling leads to another Sampling
after it (log 30). -/
def serveFlags (order : CheckOrder) (v : HostView) : HostView :=
  let toSampling : HostView := { v with mode := .sampling, alarmFlag := false }
  let toInteractive : HostView := { v with mode := .interactive, byteFlag := false }
  match order with
  | .alarmFirst => if v.alarmFlag then toSampling else if v.byteFlag then toInteractive else v
  | .byteFirst => if v.byteFlag then toInteractive else if v.alarmFlag then toSampling else v

/-- The host's transitions, complete (R292): handlers only set flags, Sampling is not interrupted. -/
def hostStep (order : CheckOrder) (v : HostView) (e : HostEvent) : HostView :=
  match e with
  | .alarmFired => { v with alarmFlag := true }
  | .byteReceived => { v with byteFlag := true }
  | .completion => if v.mode = .sampling then { v with mode := .idle } else v
  | .commandResume => if v.mode = .interactive then endSession v else v
  | .cancelByte => if v.mode = .interactive then endSession v else v
  | .look => if v.mode = .idle then serveFlags order v else v

/-- What the retried clock read CKREADR does next (R113 b, R296). -/
inductive ReadrMove where
  /-- issue CKREAD -/
  | issue
  /-- the snapshot is good -/
  | finished
  /-- TornRead is reported as fatal for the operation -/
  | fatal
deriving DecidableEq, Repr

/-- CKREADR after `n` CKREADs, the last of which ended with `st`: up to `1 + TORN_RETRY_MAX` attempts,
stopping at the first that ends with OK (R113 b). -/
def readrMove (P : Params) (n : Nat) (st : Status) : ReadrMove :=
  if n = 0 then .issue
  else if st = .ok then .finished
  else if n < 1 + P.tornRetryMax then .issue
  else .fatal

/-- An act of a host sequence: a retried clock read or one command. -/
inductive HostAct where
  | ckreadr
  | command (i : Instr)
deriving DecidableEq, Repr

/-- SETCLOCK: set one field of the running clock (R113 c). -/
def setClock (setter : Instr) : List HostAct := [.ckreadr, .command setter, .command .ckcommit]

/-- The six bytes SYNCINSTR writes: year, month, day, hour, minute, second of `PRI` (R113 d). -/
def syncBytes (p : Snap) : List Byte := [p.year, p.month, p.day, p.hour, p.min, p.sec]

/-- SYNCINSTR, from the `PRI` its clock read left, to an instrument's clock address, which the spec
does not give (R113 d); UNLOCK comes before the protected write (R297). -/
def syncInstr (slave : Byte) (addr : Half) (pri : Snap) : List HostAct :=
  [.ckreadr, .command .unlock, .command (.wrmult slave addr (syncBytes pri))]

end Sys2Proof.Machine
end

