-- ==== Sys2Proof/Safety.lean ====
section
/-! DEFINITION. The terms claims are stated in: the command in progress, a command run alone, what a
store changes, and the invariants of a run (spec/10_state.md R34, R38, R42 to R44, R60). -/

namespace Sys2Proof.Machine

/-! ## Commands and runs -/

/-- Is the instruction a command, not a wire frame (R100, R102)? -/
def isCommand : Instr → Bool
  | .bldrd _ _ _ => true
  | .bldwr _ _ _ => true
  | .seal _ => true
  | .verify => true
  | .ldfb _ => true
  | .rdfb => true
  | .crc16 _ => true
  | .decf32s _ => true
  | .deci32 _ => true
  | .decu16 _ => true
  | .decstr _ _ => true
  | .decbcd6 _ => true
  | .rdhold _ _ _ => true
  | .wrmult _ _ _ => true
  | .unlock => true
  | .ckread => true
  | .ckcommit => true
  | .wkday _ _ _ => true
  | .setsec _ _ => true
  | .setmin _ _ => true
  | .sethour _ _ => true
  | .setday _ _ => true
  | .setmon _ _ => true
  | .setyear _ _ => true
  | .setalm => true
  | .armalm _ => true
  | .rdsnap _ => true
  | .rdstat => true
  | .req03 _ _ _ _ _ => false
  | .req16 _ _ _ _ _ _ _ => false
  | .rsp03 _ _ _ _ _ => false
  | .rsp16 _ _ _ => false

/-- The number of micro-steps numbered from 1, for a command of more than one (R202, R335); 0 for a
command that is one atomic step. -/
def microSteps : Instr → Nat
  | .bldrd _ _ _ => 0
  | .bldwr _ _ _ => 0
  | .seal _ => 0
  | .verify => 0
  | .ldfb _ => 0
  | .rdfb => 0
  | .crc16 _ => 0
  | .decf32s _ => 0
  | .deci32 _ => 0
  | .decu16 _ => 0
  | .decstr _ _ => 0
  | .decbcd6 _ => 0
  | .rdhold _ _ _ => 5
  | .wrmult _ _ _ => 5
  | .unlock => 5
  | .ckread => 14
  | .ckcommit => 10
  | .wkday _ _ _ => 0
  | .setsec _ _ => 0
  | .setmin _ _ => 0
  | .sethour _ _ => 0
  | .setday _ _ => 0
  | .setmon _ _ => 0
  | .setyear _ _ => 0
  | .setalm => 5
  | .armalm _ => 2
  | .rdsnap _ => 0
  | .rdstat => 0
  | .req03 _ _ _ _ _ => 0
  | .req16 _ _ _ _ _ _ _ => 0
  | .rsp03 _ _ _ _ _ => 0
  | .rsp16 _ _ _ => 0

/-- The request frame and the length of the awaited response of a ModbusClient command
(R188, R190, R192). -/
def transaction (P : Params) : Instr → Option (List Byte × Nat)
  | .bldrd _ _ _ => none
  | .bldwr _ _ _ => none
  | .seal _ => none
  | .verify => none
  | .ldfb _ => none
  | .rdfb => none
  | .crc16 _ => none
  | .decf32s _ => none
  | .deci32 _ => none
  | .decu16 _ => none
  | .decstr _ _ => none
  | .decbcd6 _ => none
  | .rdhold a b c => some (readRequest a b c, readRspLen c)
  | .wrmult a b pl => some (writeRequest P.wrByteCount a b pl, P.wrRspLen)
  | .unlock => some (writeRequest P.wrByteCount P.unlockSlave P.unlockAddr P.unlockKey, P.wrRspLen)
  | .ckread => none
  | .ckcommit => none
  | .wkday _ _ _ => none
  | .setsec _ _ => none
  | .setmin _ _ => none
  | .sethour _ _ => none
  | .setday _ _ => none
  | .setmon _ _ => none
  | .setyear _ _ => none
  | .setalm => none
  | .armalm _ => none
  | .rdsnap _ => none
  | .rdstat => none
  | .req03 _ _ _ _ _ => none
  | .req16 _ _ _ _ _ _ _ => none
  | .rsp03 _ _ _ _ _ => none
  | .rsp16 _ _ _ => none

/-- The command in progress and the number of its next micro-step (R27). -/
def State.running (s : State) : Option (Instr × Nat) :=
  match s.seq with
  | .idle => none
  | .busy cmd pl k =>
    match decodeCommand cmd pl with
    | .ok i => some (i, k)
    | .error _ => none

/-- `n` atomic steps of one command with no event of another agent between them. -/
def execRun (i : Instr) : Nat → State → Result
  | 0, s => .next s
  | n + 1, s =>
    match exec i s with
    | .next t => execRun i n t
    | .fault e => .fault e
    | .refused e => .refused e

/-- `n` steps of the machine. -/
def stepRun : Nat → State → Result
  | 0, s => .next s
  | n + 1, s =>
    match step s with
    | .next t => stepRun n t
    | .fault e => .fault e
    | .refused e => .refused e

/-- What a command leaves that ends with OK and changes nothing but the response registers: these and
the sequencer are written out, everything else is as in `s` (R11, R27). -/
def State.responded (s : State) (r : Word) (rb : List Byte) (w : Bool) : State :=
  { s with st := .ok, w := w, r := r, rb := rb, seq := .idle }

/-- What a command leaves that ends with another status and changes nothing but the response
registers (R261). -/
def State.failed (s : State) (e : Status) : State :=
  { s with st := e, w := false, r := 0#32, rb := [], seq := .idle }

/-- `t` differs from `s` in the buffer exactly by the bytes `bs` stored from index `off`, read one
byte at a time. -/
def BytesStored (s t : State) (off : Nat) (bs : List Byte) : Prop :=
  (∀ j, j < bs.length → t.fbByte (off + j) = bs.getD j 0#8) ∧
  (∀ i, i < off ∨ off + bs.length ≤ i → t.fbByte i = s.fbByte i)

/-- The second of the day a snapshot shows. -/
def secondOfDay (p : Snap) : Nat := 3600 * bcd2bin p.hour + 60 * bcd2bin p.min + bcd2bin p.sec

/-! ## Invariants -/

/-- The buffer's data has its canonical form. -/
def State.memOk (s : State) : Prop := Memory.wf s.params.fbSize s.fb

/-- R34's invariant: `PRI`, `CHK`, `ALM` and the fields of `RTCW` and `ALRMW` are field-valid (and so
is the parameter `RESET_TIME`, to which RESET sets `RTCW`). -/
def State.clockOk (s : State) : Prop :=
  snapValid s.pri = true ∧ snapValid s.chk = true ∧ alarmValid s.alm = true ∧
  wordsValid s.rtcw = true ∧ wordsValid s.alrmw = true ∧ wordsValid s.params.resetTime = true

/-- R38: the reserved bits 6:4 of `ALCFG` read as zero and `AMASK` is 0 to 9. -/
def State.alcfgOk (s : State) : Prop :=
  s.alcfg.extractLsb' 4 3 = 0#3 ∧ (amask s.alcfg).toNat ≤ 9

/-- The lock on the time registers at rest: `WREN = 0`, `IRQINH = 0`, `KEYST = 0`. -/
def State.lockClosed (s : State) : Prop :=
  s.wren = false ∧ s.irqinh = false ∧ s.keyst = 0#2

/-- The lock before micro-step `k` of CKCOMMIT (R214): which of `WREN`, `IRQINH` are set, and
`KEYST`. -/
def State.lockAt (s : State) (k : Nat) : Prop :=
  match k with
  | 1 => s.lockClosed
  | 2 => s.wren = false ∧ s.irqinh = true ∧ s.keyst = 0#2
  | 3 => s.wren = false ∧ s.irqinh = true ∧ s.keyst = 1#2
  | 4 => s.wren = false ∧ s.irqinh = true ∧ s.keyst = 2#2
  | 5 => s.wren = true ∧ s.irqinh = true ∧ s.keyst = 0#2
  | k => k ≤ 10 ∧ s.wren = true ∧ s.irqinh = false ∧ s.keyst = 0#2

/-- The lock is closed except inside CKCOMMIT, where it goes through R214's sequence (R39, R44, R46). -/
def State.lockOk (s : State) : Prop :=
  match s.running with
  | some (.ckcommit, k) => s.lockAt k
  | _ => s.lockClosed

/-- Every byte below `n` is specified. -/
def State.specified (s : State) (n : Nat) : Prop :=
  ∀ i, i < n → (Memory.get? s.fb i).isSome = true

/-- What the tag `FBK` says of the buffer (R41, R42): of a `BAD` frame that `verify` fails, which it does
on a wrong checksum and on fewer than two bytes (R139). -/
def State.tagOk (s : State) : Prop :=
  s.fblen ≤ s.params.fbSize ∧
  (s.fbk = .empty → s.fblen = 0) ∧
  (s.fbk = .good → verifyFrame (s.fbBytes 0 s.fblen) = true) ∧
  (s.fbk = .bad → verifyFrame (s.fbBytes 0 s.fblen) = false) ∧
  (s.fbk ≠ .unspec → s.specified s.fblen)

/-- Where a transaction awaiting `explen` bytes stands before its step `k` (R182 to R186): the
request is in the buffer while it is sent, and the bytes received so far are there while more are
awaited, the buffer being tagged unspecified. -/
def State.xactOk (s : State) (k explen : Nat) : Prop :=
  5 ≤ explen ∧ explen ≤ s.params.fbSize ∧
  match k with
  | 2 => s.fbk = .good
  | 4 => s.fbk = .unspec ∧ s.explen = explen ∧ s.idx < explen ∧ s.specified s.idx ∧
      1 ≤ s.pollcnt ∧ s.pollcnt ≤ s.params.pollBudget
  | 5 => s.fbk = .unspec ∧ s.explen = explen ∧ s.idx = explen ∧ s.specified explen
  | _ => True

/-- The buffer's invariant: the tag, and a transaction in progress, whose request fits the buffer. -/
def State.bufOk (s : State) : Prop :=
  s.tagOk ∧
  match s.running with
  | some (i, k) =>
    match transaction s.params i with
    | some (f, explen) => f.length ≤ s.params.fbSize ∧ s.xactOk k explen
    | none => True
  | none => True

/-- The sequencer is Idle, or Busy with a command of more than one micro-step, at one of its
micro-steps (R27, R335). -/
def State.seqOk (s : State) : Prop :=
  match s.seq with
  | .idle => True
  | .busy cmd pl k =>
    match decodeCommand cmd pl with
    | .ok i => 1 ≤ k ∧ k ≤ microSteps i
    | .error _ => False

/-- Everything together. -/
structure State.Inv (s : State) : Prop where
  params : s.params.ok = true
  mem : s.memOk
  clock : s.clockOk
  alcfg : s.alcfgOk
  lock : s.lockOk
  buf : s.bufOk
  seq : s.seqOk

/-- The event the step runs next is an input the spec admits: a command's payload fits (R100). Any
bytes may pass on the wire (R85, R110). -/
def State.inputOk (s : State) : Prop :=
  match s.agenda with
  | .input (.command _ pl) :: _ => payloadFits s.params pl = true
  | _ => True

end Sys2Proof.Machine
end

