-- ==== Sys2Proof/Certificates/Slice0/Obligations.lean ====
section
/-! DEFINITION. The statements for the provers. Each says which rule of spec/ it formalises; where it
rests on a choice of the model, it names the log entry. -/

open Sys2Proof Sys2Proof.Machine

/-! ## The checksum (spec/40_framecodec.md section 1) -/

/-- The properties of the checksum that R131 and R139 mark as derived from R130: (a) the checksum of a
sequence followed by its own checksum, low byte first, is zero; (b) a built frame verifies;
(c) flipping any single bit of a built frame makes `verify` false; (d) the check value of the nine
ASCII digits; and, on two bytes or more, `verify` is true exactly when the checksum of the whole is
zero. -/
def Obligations.CrcHasTheStatedProperties : Prop :=
  (∀ s : List Byte,
    Machine.crc16 (s ++ [loByte (Machine.crc16 s), hiByte (Machine.crc16 s)]) = 0x0000#16 ∧
    verifyFrame (frame s) = true ∧
    ∀ i j : Nat, i < (frame s).length → j < 8 →
      verifyFrame ((frame s).set i ((frame s).getD i 0#8 ^^^ (1#8 <<< j))) = false) ∧
  (∀ f : List Byte, 2 ≤ f.length → (verifyFrame f = true ↔ Machine.crc16 f = 0x0000#16)) ∧
  Machine.crc16 [0x31#8, 0x32#8, 0x33#8, 0x34#8, 0x35#8, 0x36#8, 0x37#8, 0x38#8, 0x39#8] = 0x4B37#16

/-- R139: `verify` recomputes the checksum over all bytes except the trailing two and compares, those
two being the checksum low byte first; it is false on fewer than two bytes. -/
def Obligations.VerifyComparesTheTrailingChecksum : Prop :=
  (∀ f : List Byte, f.length < 2 → verifyFrame f = false) ∧
  (∀ (body : List Byte) (l h : Byte),
    verifyFrame (body ++ [l, h]) = true ↔ (Machine.crc16 body).toNat = l.toNat + 256 * h.toNat)

/-! ## U1 FrameCodec -/

/-- R134: BLDRD builds the read request in the buffer, whatever the tag was, and returns it; nothing
else changes. Hypothesis: `FB_SIZE` is at least 8 (R9). -/
def Obligations.BldrdBuildsReadRequest : Prop :=
  ∀ (a : Byte) (b c : Half) (s : State), 8 ≤ s.params.fbSize →
    let f := frame [a, 0x03#8, hiByte b, loByte b, hiByte c, loByte c]
    ∃ t, exec (.bldrd a b c) s = .next t ∧
      t = { s.responded 8#32 f false with
            fb := t.fb
            fblen := 8
            fbk := .good } ∧
      BytesStored s t 0 f

/-- R136: BLDWR builds the write request, with the register count in the 16-bit field and the
byte-count byte only when the parameter asks for it, or refuses the three bad payloads and changes
nothing but the response. For a payload of 131072 bytes or more, which only an `FB_SIZE` past R145's
131078 admits, the count field keeps the low 16 bits by log 29, the model's reading. -/
def Obligations.BldwrBuildsOrRefuses : Prop :=
  ∀ (a : Byte) (b : Half) (pl : List Byte) (s : State),
    let x := if s.params.wrByteCount then 1 else 0
    let n : Half := BitVec.ofNat 16 (pl.length / 2)
    let f := frame ([a, 0x10#8, hiByte b, loByte b, hiByte n, loByte n] ++
      (if s.params.wrByteCount then [BitVec.ofNat 8 pl.length] else []) ++ pl)
    let bad := pl.length % 2 ≠ 0 ∨ s.params.fbSize < 8 + x + pl.length ∨ (x = 1 ∧ 255 < pl.length)
    (bad → exec (.bldwr a b pl) s = .next (s.failed .badArg)) ∧
    (¬ bad → ∃ t, exec (.bldwr a b pl) s = .next t ∧
      t = { s.responded (BitVec.ofNat 32 (8 + x + pl.length)) f false with
            fb := t.fb
            fblen := 8 + x + pl.length
            fbk := .good } ∧
      BytesStored s t 0 f)

/-- R138: SEAL appends the checksum to any bytes and leaves the frame in the buffer, or refuses what
does not fit. -/
def Obligations.SealAppendsChecksum : Prop :=
  ∀ (pl : List Byte) (s : State),
    (s.params.fbSize < pl.length + 2 → exec (.seal pl) s = .next (s.failed .badArg)) ∧
    (pl.length + 2 ≤ s.params.fbSize →
      ∃ t, exec (.seal pl) s = .next t ∧
        t = { s.responded (BitVec.ofNat 32 (pl.length + 2)) (frame pl) false with
              fb := t.fb
              fblen := pl.length + 2
              fbk := .good } ∧
        BytesStored s t 0 (frame pl))

/-- R140: VERIFY tests the frame now in the buffer and tags it; a false result is no failure; with
nothing defined to check it ends NotValid. The buffer's length is within `FB_SIZE` (R41). -/
def Obligations.VerifyTagsTheBuffer : Prop :=
  ∀ s : State,
    ((s.fbk = .empty ∨ s.fbk = .unspec) → exec .verify s = .next (s.failed .notValid)) ∧
    (s.fbk ≠ .empty → s.fbk ≠ .unspec → s.fblen ≤ s.params.fbSize →
      exec .verify s = .next
        (if verifyFrame (s.fbBytes 0 s.fblen) then { s.responded 1#32 [] false with fbk := .good }
         else { s.responded 0#32 [] false with fbk := .bad }))

/-- R142: LDFB loads bytes unchecked. The payload is at most `FB_SIZE` long (R100). -/
def Obligations.LdfbLoadsUnchecked : Prop :=
  ∀ (pl : List Byte) (s : State), pl.length ≤ s.params.fbSize →
    ∃ t, exec (.ldfb pl) s = .next t ∧
      t = { s.responded (BitVec.ofNat 32 pl.length) [] false with
            fb := t.fb
            fblen := pl.length
            fbk := .raw } ∧
      BytesStored s t 0 pl

/-- R143: RDFB returns the buffer's bytes and their number, and refuses an unspecified buffer. -/
def Obligations.RdfbReturnsTheBuffer : Prop :=
  ∀ s : State,
    (s.fbk = .unspec → exec .rdfb s = .next (s.failed .notValid)) ∧
    (s.fbk ≠ .unspec → s.fblen ≤ s.params.fbSize →
      ∃ bs, exec .rdfb s = .next (s.responded (BitVec.ofNat 32 s.fblen) bs false) ∧
        bs.length = s.fblen ∧ ∀ j, j < s.fblen → bs[j]? = some (s.fbByte j))

/-- R132: CRC16 returns the checksum of its payload, zero extended, and touches no other state. -/
def Obligations.Crc16ReturnsChecksum : Prop :=
  ∀ (pl : List Byte) (s : State),
    exec (.crc16 pl) s = .next (s.responded (BitVec.ofNat 32 (Machine.crc16 pl).toNat) [] false)

/-- R104 to R106: the frames the builders and the client send are encodings of well-formed wire
frames: REQ03 for a read, REQ16 for a write. -/
def Obligations.BuiltFramesAreWireFrames : Prop :=
  (∀ (P : Params) (a : Byte) (b c : Half), ∃ l h,
    Instr.wf P (.req03 a b c l h) = true ∧ encode (.req03 a b c l h) = .wire .req03 (readRequest a b c)) ∧
  (∀ (P : Params) (a : Byte) (b : Half) (pl : List Byte),
    writeRequestFits P pl = true → pl.length < 131072 →
    ∃ n k l h, Instr.wf P (.req16 a b n k pl l h) = true ∧
      encode (.req16 a b n k pl l h) = .wire .req16 (writeRequest P.wrByteCount a b pl))

/-! ## U2 Transcoder -/

/-- R73, R161, R162, R164, R166: inside the payload window DECI32 and DECU16 read big-endian numbers,
and DECF32S forms its pattern from the received bytes in the order `F32_PERM` gives, most significant
first: with the default (3,2,1,0), from `b3 b2 b1 b0`. Nothing but the response changes. -/
def Obligations.NumberDecodersUseTheirByteOrders : Prop :=
  ∀ (c : Half) (s : State), s.fbk = .good → s.fblen ≤ s.params.fbSize →
    let p := fun j => (s.fbByte (3 + c.toNat + j)).toNat
    let k := s.params.f32Perm
    (5 + c.toNat + 4 ≤ s.fblen → exec (.deci32 c) s = .next
      (s.responded (BitVec.ofNat 32 (p 0 * 2 ^ 24 + p 1 * 2 ^ 16 + p 2 * 2 ^ 8 + p 3)) [] false)) ∧
    (5 + c.toNat + 2 ≤ s.fblen → exec (.decu16 c) s = .next
      (s.responded (BitVec.ofNat 32 (p 0 * 2 ^ 8 + p 1)) [] false)) ∧
    (5 + c.toNat + 4 ≤ s.fblen → exec (.decf32s c) s = .next
      (s.responded (BitVec.ofNat 32
        (p k.k0 * 2 ^ 24 + p k.k1 * 2 ^ 16 + p k.k2 * 2 ^ 8 + p k.k3)) [] false)) ∧
    (5 + c.toNat + 4 ≤ s.fblen → k = ⟨3, 2, 1, 0⟩ → exec (.decf32s c) s = .next
      (s.responded (BitVec.ofNat 32 (p 3 * 2 ^ 24 + p 2 * 2 ^ 16 + p 1 * 2 ^ 8 + p 0)) [] false))

/-- R168, R170: DECSTR returns the raw bytes, and in `R` the number of bytes before the first zero
byte, or the width if there is none; DECBCD6 returns the six bytes unchanged, and in `R` whether all
twelve nibbles are decimal digits. Nothing but the response changes. -/
def Obligations.ByteDecodersReturnRawBytes : Prop :=
  ∀ (a : Byte) (c : Half) (s : State), s.fbk = .good → s.fblen ≤ s.params.fbSize →
    let p := fun j => s.fbByte (3 + c.toNat + j)
    (a ≠ 0#8 → 5 + c.toNat + a.toNat ≤ s.fblen →
      ∃ (n : Nat) (bs : List Byte),
        exec (.decstr a c) s = .next (s.responded (BitVec.ofNat 32 n) bs false) ∧
        bs.length = a.toNat ∧ (∀ j, j < a.toNat → bs[j]? = some (p j)) ∧
        n ≤ a.toNat ∧ (∀ j, j < n → p j ≠ 0x00#8) ∧ (n < a.toNat → p n = 0x00#8)) ∧
    (5 + c.toNat + 6 ≤ s.fblen →
      ∃ (r : Word) (bs : List Byte), exec (.decbcd6 c) s = .next (s.responded r bs false) ∧
        bs.length = 6 ∧ (∀ j, j < 6 → bs[j]? = some (p j)) ∧
        (r = 1#32 ∨ r = 0#32) ∧
        (r = 1#32 ↔ ∀ j, j < 6 → (p j).toNat / 16 ≤ 9 ∧ (p j).toNat % 16 ≤ 9))

/-- R160, R161, R168, R262 (2): outside `GOOD` every decoder ends NotValid, whatever the offset; a
value not wholly inside the window is refused with BadArg, however large the offset; DECSTR's zero
width is BadArg whatever the tag. Nothing but the response changes. -/
def Obligations.DecodersRefuseOutsideTheWindow : Prop :=
  ∀ (a : Byte) (c : Half) (s : State),
    (s.fbk ≠ .good →
      exec (.decf32s c) s = .next (s.failed .notValid) ∧
      exec (.deci32 c) s = .next (s.failed .notValid) ∧
      exec (.decu16 c) s = .next (s.failed .notValid) ∧
      exec (.decbcd6 c) s = .next (s.failed .notValid) ∧
      (a ≠ 0#8 → exec (.decstr a c) s = .next (s.failed .notValid))) ∧
    exec (.decstr 0#8 c) s = .next (s.failed .badArg) ∧
    (s.fbk = .good →
      (s.fblen < 5 + c.toNat + 4 → exec (.decf32s c) s = .next (s.failed .badArg)) ∧
      (s.fblen < 5 + c.toNat + 4 → exec (.deci32 c) s = .next (s.failed .badArg)) ∧
      (s.fblen < 5 + c.toNat + 2 → exec (.decu16 c) s = .next (s.failed .badArg)) ∧
      (s.fblen < 5 + c.toNat + 6 → exec (.decbcd6 c) s = .next (s.failed .badArg)) ∧
      (a ≠ 0#8 → s.fblen < 5 + c.toNat + a.toNat → exec (.decstr a c) s = .next (s.failed .badArg)))

/-! ## U3 ModbusClient -/

/-- R188, R190, R192 (step 0), with R27: from Idle the operands are checked before anything is sent; a
bad one ends the command with nothing but the response changed, a good one is accepted with its
first micro-step next. UNLOCK is exactly WRMULT with the three parameters, in every state. (That
acceptance and step 0 are one atomic step is the model's reading, log 3.) -/
def Obligations.ClientChecksOperandsFirst : Prop :=
  ∀ (a : Byte) (b c : Half) (pl : List Byte) (s : State),
    let accepted := { s with seq := .busy s.portCmd s.portPl 1 }
    let x := if s.params.wrByteCount then 1 else 0
    exec .unlock s =
      exec (.wrmult s.params.unlockSlave s.params.unlockAddr s.params.unlockKey) s ∧
    (s.seq = .idle →
      exec (.rdhold a b c) s = .next
        (if s.params.fbSize < 5 + 2 * c.toNat then s.failed .badArg else accepted) ∧
      exec (.wrmult a b pl) s = .next
        (if pl.length % 2 ≠ 0 ∨ s.params.fbSize < 8 + x + pl.length ∨ (x = 1 ∧ 255 < pl.length)
         then s.failed .badArg else accepted) ∧
      (s.params.keyOk = true → exec .unlock s = .next accepted))

/-- R182, R184: step 1 of RDHOLD, WRMULT and UNLOCK builds the request in the buffer; step 2 hands one
byte of it to the transport, in index order, and repeats until all are sent. Nothing else changes. -/
def Obligations.TransactionBuildsAndSends : Prop :=
  ∀ (i : Instr) (f : List Byte) (n : Nat) (cmd : CmdWord) (pl : List Byte) (s : State),
    transaction s.params i = some (f, n) →
    (s.seq = .busy cmd pl 1 → f.length ≤ s.params.fbSize →
      ∃ t, exec i s = .next t ∧
        t = { s with
              fb := t.fb
              fblen := f.length
              fbk := .good
              idx := 0
              seq := .busy cmd pl 2 } ∧
        BytesStored s t 0 f) ∧
    (s.seq = .busy cmd pl 2 → s.idx < s.fblen → s.fblen ≤ s.params.fbSize →
      exec i s = .next { s with
        tx := s.tx ++ [s.fbByte s.idx]
        idx := s.idx + 1
        seq := .busy cmd pl (if s.idx + 1 < s.fblen then 2 else 3) })

/-- R185: the set-up of the reception, and one poll, whatever answers it: the script, or where that is
empty the oracle (R85; log 8). A byte is stored and renews the budget, or, as the last one, leads to the
check; no byte runs the budget down, and when it is exhausted the command ends with Timeout. While the
tag is UNSPEC the bytes received stay as they are, nothing is said of any other byte, and of the length
only that it is within `FB_SIZE` (R41, R43): from step 3 on by log 21, the bound by log 7, anew at every
poll by log 6, the model's readings. -/
def Obligations.ReceivePollsUnderABudget : Prop :=
  ∀ (i : Instr) (f : List Byte) (n : Nat) (cmd : CmdWord) (pl : List Byte) (s : State),
    transaction s.params i = some (f, n) →
    let lengthOf := fun t : State =>
      (s.fbk = .unspec → t.fblen ≤ s.params.fbSize) ∧
      (s.fbk ≠ .unspec → t.fblen = s.fblen ∧ t.freeCount = s.freeCount)
    (s.seq = .busy cmd pl 3 → ∃ t, exec i s = .next t ∧
      t = { s with
        fb := t.fb
        fblen := t.fblen
        freeCount := t.freeCount
        fbk := .unspec
        idx := 0
        explen := n
        pollcnt := s.params.pollBudget
        seq := .busy cmd pl 4 } ∧
      t.fblen ≤ s.params.fbSize) ∧
    (s.seq = .busy cmd pl 4 →
      (∀ x rest, s.rx = x :: rest → s.rxNext = x) ∧
      (s.rx = [] → s.rxNext = Config.rxAnswer s.rxCount) ∧
      (∀ b, s.rxNext = some b → s.idx < s.params.fbSize →
        ∃ t, exec i s = .next t ∧ lengthOf t ∧ t.fbByte s.idx = b ∧
          (∀ j, j ≠ s.idx → s.fbk ≠ .unspec ∨ (Memory.get? s.fb j).isSome = true →
            t.fbByte j = s.fbByte j) ∧
          (s.idx + 1 = s.explen → t = { s with
            fb := t.fb
            fblen := t.fblen
            freeCount := t.freeCount
            idx := s.idx + 1
            rx := s.rx.tail
            rxCount := s.rxCount + 1
            seq := .busy cmd pl 5 }) ∧
          (s.idx + 1 ≠ s.explen → t = { s with
            fb := t.fb
            fblen := t.fblen
            freeCount := t.freeCount
            idx := s.idx + 1
            rx := s.rx.tail
            rxCount := s.rxCount + 1
            pollcnt := s.params.pollBudget })) ∧
      (s.rxNext = none →
        (2 ≤ s.pollcnt → ∃ t, exec i s = .next t ∧ lengthOf t ∧ t = { s with
          fblen := t.fblen
          freeCount := t.freeCount
          rx := s.rx.tail
          rxCount := s.rxCount + 1
          pollcnt := s.pollcnt - 1 }) ∧
        (s.pollcnt = 1 → ∃ t, exec i s = .next t ∧ t.fblen ≤ s.params.fbSize ∧
          t = { s.failed .timeout with
            rx := s.rx.tail
            rxCount := s.rxCount + 1
            pollcnt := 0
            fb := t.fb
            fblen := t.fblen
            freeCount := t.freeCount } ∧
          (s.fbk = .unspec → t.fbk = .unspec))))

/-- R186, R188, R190: step 5 verifies the bytes received; a right checksum ends the command with OK
and the tag GOOD (RDHOLD returning the payload, WRMULT and UNLOCK nothing), a wrong one with
ChecksumMismatch and the tag BAD, the bytes staying in the buffer. -/
def Obligations.ReceiveChecksTheChecksum : Prop :=
  ∀ (i : Instr) (f : List Byte) (n : Nat) (cmd : CmdWord) (pl : List Byte) (s : State),
    transaction s.params i = some (f, n) → s.seq = .busy cmd pl 5 →
    s.explen = n → 5 ≤ n → n ≤ s.params.fbSize →
    (verifyFrame (s.fbBytes 0 n) = false →
      exec i s = .next { s.failed .checksumMismatch with fblen := n, fbk := .bad }) ∧
    (verifyFrame (s.fbBytes 0 n) = true →
      (∀ a b c, i = .rdhold a b c → exec i s = .next
        { s.responded (BitVec.ofNat 32 (2 * c.toNat)) (s.fbBytes 3 (2 * c.toNat)) false with
          fblen := n, fbk := .good }) ∧
      ((∀ a b c, i ≠ .rdhold a b c) → exec i s = .next
        { s.responded 0#32 [] false with fblen := n, fbk := .good }))

/-- R188 with R180 to R186: RDHOLD, run from Idle with a transport that answers every poll with the
next byte of a response of the awaited length and a right checksum: it sends the request, takes the
bytes, and returns the payload, in 17 + 2c atomic steps and 5 + 2c polls. The buffer holds the response;
of the bytes above it nothing is said (R41, R43). -/
def Obligations.RdholdCompletesWhenAnswered : Prop :=
  ∀ (a : Byte) (b c : Half) (s : State) (resp : List Byte) (rest : List (Option Byte)),
    s.seq = .idle → 8 ≤ s.params.fbSize → 5 + 2 * c.toNat ≤ s.params.fbSize →
    resp.length = 5 + 2 * c.toNat → verifyFrame resp = true → s.rx = resp.map some ++ rest →
    ∃ t, execRun (.rdhold a b c) (17 + 2 * c.toNat) s = .next t ∧
      t = { s.responded (BitVec.ofNat 32 (2 * c.toNat)) ((resp.drop 3).take (2 * c.toNat)) false with
            fb := t.fb
            freeCount := t.freeCount
            fblen := 5 + 2 * c.toNat
            fbk := .good
            idx := 5 + 2 * c.toNat
            explen := 5 + 2 * c.toNat
            pollcnt := s.params.pollBudget
            tx := s.tx ++ frame [a, 0x03#8, hiByte b, loByte b, hiByte c, loByte c]
            rx := rest
            rxCount := s.rxCount + (5 + 2 * c.toNat) } ∧
      ∀ j, j < resp.length → t.fbByte j = resp.getD j 0#8

/-- R190, R192 with R180 to R186: WRMULT and UNLOCK, run from Idle with a transport that answers every
poll with the next byte of a response of WR_RSP_LEN bytes and a right checksum. The buffer holds the
response; of the bytes above it nothing is said (R41, R43). -/
def Obligations.WrmultAndUnlockCompleteWhenAnswered : Prop :=
  ∀ (i : Instr) (a : Byte) (b : Half) (pl : List Byte) (s : State) (resp : List Byte)
    (rest : List (Option Byte)),
    (i = .wrmult a b pl ∨
      (i = .unlock ∧ a = s.params.unlockSlave ∧ b = s.params.unlockAddr ∧ pl = s.params.unlockKey)) →
    s.seq = .idle → writeRequestFits s.params pl = true →
    5 ≤ s.params.wrRspLen → s.params.wrRspLen ≤ s.params.fbSize →
    resp.length = s.params.wrRspLen → verifyFrame resp = true → s.rx = resp.map some ++ rest →
    let f := writeRequest s.params.wrByteCount a b pl
    ∃ t, execRun i (4 + f.length + s.params.wrRspLen) s = .next t ∧
      t = { s.responded 0#32 [] false with
            fb := t.fb
            freeCount := t.freeCount
            fblen := s.params.wrRspLen
            fbk := .good
            idx := s.params.wrRspLen
            explen := s.params.wrRspLen
            pollcnt := s.params.pollBudget
            tx := s.tx ++ f
            rx := rest
            rxCount := s.rxCount + s.params.wrRspLen } ∧
      ∀ j, j < resp.length → t.fbByte j = resp.getD j 0#8

/-- What R196 derives from R184 and R185: whatever the transport answers, the reception ends: after at least one and at most
`(EXPLEN - IDX) * POLL_BUDGET` polls the sequencer is at step 5 or the command has ended with
Timeout, nothing being sent meanwhile; and `POLLCNT` polls in a row that answer nothing end it with
Timeout after exactly that many polls. -/
def Obligations.ReceptionIsBounded : Prop :=
  ∀ (i : Instr) (f : List Byte) (n : Nat) (cmd : CmdWord) (pl : List Byte) (s : State),
    transaction s.params i = some (f, n) → s.seq = .busy cmd pl 4 → 1 ≤ s.pollcnt →
    (s.idx < s.explen → s.explen ≤ s.params.fbSize → s.pollcnt ≤ s.params.pollBudget →
      ∃ m t, 1 ≤ m ∧ m ≤ (s.explen - s.idx) * s.params.pollBudget ∧ execRun i m s = .next t ∧
        t.rxCount = s.rxCount + m ∧ t.tx = s.tx ∧
        (t.seq = .busy cmd pl 5 ∨ (t.seq = .idle ∧ t.st = .timeout))) ∧
    (∀ rest, s.rx = List.replicate s.pollcnt none ++ rest →
      ∃ t, execRun i s.pollcnt s = .next t ∧ t.st = .timeout ∧ t.seq = .idle ∧ t.r = 0#32 ∧
        t.w = false ∧ t.rb = [] ∧ t.fbk = s.fbk ∧ t.rx = rest ∧
        t.rxCount = s.rxCount + s.pollcnt ∧ t.tx = s.tx)

/-- R86: half duplex. A command calls TxByte only in step 2 of a transaction and RxPoll only in step
4, never both in one step, and no other command calls either. -/
def Obligations.CommandsAreHalfDuplex : Prop :=
  ∀ (i : Instr) (s t : State), isCommand i = true → exec i s = .next t →
    (t.tx ≠ s.tx → (transaction s.params i).isSome = true ∧ t.rxCount = s.rxCount ∧ t.rx = s.rx ∧
      ∃ cmd pl, s.seq = .busy cmd pl 2) ∧
    (t.rxCount ≠ s.rxCount ∨ t.rx ≠ s.rx → (transaction s.params i).isSome = true ∧ t.tx = s.tx ∧
      ∃ cmd pl, s.seq = .busy cmd pl 4)

/-- What R202 derives from R275 and R282: the tick and the acknowledge touch no state a transaction
uses: a transaction's step commutes with each. -/
def Obligations.TransactionsIgnoreTheClock : Prop :=
  ∀ (i : Instr) (s t : State), (transaction s.params i).isSome = true → exec i s = .next t →
    exec i s.htick = .next t.htick ∧ exec i s.almack = .next t.almack

/-! ## U4 ClockKeeper -/

/-- R210: every micro-step of CKREAD: one field of the time registers, in field order, into PRI and
then into CHK, and the comparison of all seven bytes in the last. (That acceptance from Idle, which R27
gives, is an atomic step of its own is the model's reading, log 3.) -/
def Obligations.CkreadStepByStep : Prop :=
  ∀ s : State,
    (s.seq = .idle → exec .ckread s = .next { s with seq := .busy s.portCmd s.portPl 1 }) ∧
    (∀ cmd ops,
      let t := wordsSnap s.rtcw
      (s.seq = .busy cmd ops 1 → exec .ckread s = .next { s with pri := { s.pri with sec := t.sec }, seq := .busy cmd ops 2 }) ∧
      (s.seq = .busy cmd ops 2 → exec .ckread s = .next { s with pri := { s.pri with min := t.min }, seq := .busy cmd ops 3 }) ∧
      (s.seq = .busy cmd ops 3 → exec .ckread s = .next { s with pri := { s.pri with hour := t.hour }, seq := .busy cmd ops 4 }) ∧
      (s.seq = .busy cmd ops 4 → exec .ckread s = .next { s with pri := { s.pri with weekday := t.weekday }, seq := .busy cmd ops 5 }) ∧
      (s.seq = .busy cmd ops 5 → exec .ckread s = .next { s with pri := { s.pri with day := t.day }, seq := .busy cmd ops 6 }) ∧
      (s.seq = .busy cmd ops 6 → exec .ckread s = .next { s with pri := { s.pri with month := t.month }, seq := .busy cmd ops 7 }) ∧
      (s.seq = .busy cmd ops 7 → exec .ckread s = .next { s with pri := { s.pri with year := t.year }, seq := .busy cmd ops 8 }) ∧
      (s.seq = .busy cmd ops 8 → exec .ckread s = .next { s with chk := { s.chk with sec := t.sec }, seq := .busy cmd ops 9 }) ∧
      (s.seq = .busy cmd ops 9 → exec .ckread s = .next { s with chk := { s.chk with min := t.min }, seq := .busy cmd ops 10 }) ∧
      (s.seq = .busy cmd ops 10 → exec .ckread s = .next { s with chk := { s.chk with hour := t.hour }, seq := .busy cmd ops 11 }) ∧
      (s.seq = .busy cmd ops 11 → exec .ckread s = .next { s with chk := { s.chk with weekday := t.weekday }, seq := .busy cmd ops 12 }) ∧
      (s.seq = .busy cmd ops 12 → exec .ckread s = .next { s with chk := { s.chk with day := t.day }, seq := .busy cmd ops 13 }) ∧
      (s.seq = .busy cmd ops 13 → exec .ckread s = .next { s with chk := { s.chk with month := t.month }, seq := .busy cmd ops 14 }) ∧
      (s.seq = .busy cmd ops 14 →
        let last := { s with chk := { s.chk with year := t.year } }
        exec .ckread s = .next
          (if last.pri = last.chk then
            last.responded 7#32
              [s.pri.sec, s.pri.min, s.pri.hour, s.pri.weekday, s.pri.day, s.pri.month, s.pri.year] false
           else last.failed .tornRead)))

/-- R210: CKREAD run alone from Idle, no tick between its steps: OK, both snapshots are the seven
fields of the time registers, which are returned in field order. The run is 15 atomic steps where R335
counts 14: acceptance (R27) is one more by log 3, the model's reading. -/
def Obligations.CkreadUndisturbedSucceeds : Prop :=
  ∀ s : State, s.seq = .idle →
    let t := wordsSnap s.rtcw
    execRun .ckread 15 s = .next
      { s.responded 7#32 [t.sec, t.min, t.hour, t.weekday, t.day, t.month, t.year] false with
        pri := t, chk := t }

/-- What R211 derives from R210 and R275: a CKREAD at its step 1, in any interleaving of its 14 steps with ticks and acknowledges that
has at most one second edge: it ends OK or TornRead, and if OK then no second edge fell between its
steps 1 and 8 and PRI is what the time registers held at step 1. (A second edge is every tick at
`HALF = 1`: `h` ticks from phase `HALF` make `(h + HALF) / 2`. That the agenda stands for any
interleaving is log 1, the model's choice.) -/
def Obligations.CkreadWithOneEdgeIsSound : Prop :=
  ∀ (s : State) (cmd : CmdWord) (pl : List Byte) (sched : List Event),
    s.seq = .busy cmd pl 1 → decodeCommand cmd pl = .ok .ckread →
    s.agenda = .micro :: sched → (∀ e ∈ sched, e = .micro ∨ e = .htick ∨ e = .almack) →
    sched.count .micro = 13 → (sched.count .htick + (if s.half then 1 else 0)) / 2 ≤ 1 →
    ∃ t, stepRun (sched.length + 1) s = .next t ∧ t.seq = .idle ∧ (t.st = .ok ∨ t.st = .tornRead) ∧
      (t.st = .ok →
        t.pri = wordsSnap s.rtcw ∧ t.rb = snapBytes (wordsSnap s.rtcw) ∧
        ∀ p q, sched = p ++ .micro :: q → p.count .micro = 6 →
          (p.count .htick + (if s.half then 1 else 0)) / 2 = 0)

/-- R214, with R35, R39, R44: the ten micro-steps of CKCOMMIT. Step 1 computes the weekday and inhibits
interrupts; steps 2 and 3 write the key pair (`KEYST` being what every run has there, R214); step 4
sets the write enable exactly when unlocked and locks again; step 5 lets interrupts in; steps 6 to 9
write the four words from the year down to the seconds, and no word while `WREN = 0`; step 10 clears
the enable and ends the command. Nothing else changes in any step. (That acceptance from Idle, which R27
gives, is an atomic step of its own is the model's reading, log 3.) -/
def Obligations.CommitStepByStep : Prop :=
  ∀ (s : State) (cmd : CmdWord) (pl : List Byte),
    let p := s.pri
    let wd := BitVec.ofNat 8 (weekday (bcd2bin p.year) (bcd2bin p.month) (bcd2bin p.day))
    (s.seq = .idle → exec .ckcommit s = .next { s with seq := .busy s.portCmd s.portPl 1 }) ∧
    (s.seq = .busy cmd pl 1 → exec .ckcommit s = .next { s with
      pri := { p with weekday := wd }, irqinh := true, seq := .busy cmd pl 2 }) ∧
    (s.seq = .busy cmd pl 2 → s.keyst = 0#2 → exec .ckcommit s = .next { s with
      prot := s.params.key1, keyst := 1#2, seq := .busy cmd pl 3 }) ∧
    (s.seq = .busy cmd pl 3 → s.keyst = 1#2 → exec .ckcommit s = .next { s with
      prot := s.params.key2, keyst := 2#2, seq := .busy cmd pl 4 }) ∧
    (s.seq = .busy cmd pl 4 → exec .ckcommit s = .next { s with
      wren := s.wren || decide (s.keyst = 2#2), keyst := 0#2, seq := .busy cmd pl 5 }) ∧
    (s.seq = .busy cmd pl 5 → exec .ckcommit s = .next { s with
      irqinh := false, seq := .busy cmd pl 6 }) ∧
    (s.seq = .busy cmd pl 6 → exec .ckcommit s = .next { s with
      rtcw := if s.wren then { s.rtcw with w3 := packWord 0x00#8 p.year } else s.rtcw
      seq := .busy cmd pl 7 }) ∧
    (s.seq = .busy cmd pl 7 → exec .ckcommit s = .next { s with
      rtcw := if s.wren then { s.rtcw with w2 := packWord p.month p.day } else s.rtcw
      seq := .busy cmd pl 8 }) ∧
    (s.seq = .busy cmd pl 8 → exec .ckcommit s = .next { s with
      rtcw := if s.wren then { s.rtcw with w1 := packWord p.weekday p.hour } else s.rtcw
      seq := .busy cmd pl 9 }) ∧
    (s.seq = .busy cmd pl 9 → exec .ckcommit s = .next { s with
      rtcw := if s.wren then { s.rtcw with w0 := packWord p.min p.sec } else s.rtcw
      seq := .busy cmd pl 10 }) ∧
    (s.seq = .busy cmd pl 10 → exec .ckcommit s = .next
      { s.responded 0#32 [] false with wren := false })

/-- R214: CKCOMMIT run alone from Idle with the lock at rest: the time registers become the packed
`PRI` with the weekday of its date, the lock is at rest again, and nothing else changes. The run is 11
atomic steps where R335 counts 10: acceptance (R27) is one more by log 3, the model's reading. -/
def Obligations.CommitUndisturbedSetsTheClock : Prop :=
  ∀ s : State, s.seq = .idle → s.lockClosed →
    let p := s.pri
    let wd := BitVec.ofNat 8 (weekday (bcd2bin p.year) (bcd2bin p.month) (bcd2bin p.day))
    execRun .ckcommit 11 s = .next { s.responded 0#32 [] false with
      pri := { p with weekday := wd }
      prot := s.params.key2
      rtcw := ⟨packWord p.min p.sec, packWord wd p.hour, packWord p.month p.day,
        packWord 0x00#8 p.year⟩ }

/-- R217, R39, R44 to R46, R37, R38: which steps of the whole machine, RESET apart, change the time
registers (HTICK and CKCOMMIT), the lock and the interrupt inhibit (CKCOMMIT), the alarm flag (HTICK
sets it, ALMACK clears it), the alarm words (SETALM) and the alarm configuration (SETALM, ARMALM,
HTICK, ALMACK): no other event and no other command does. -/
def Obligations.OnlyTheirOwnersWriteTheClock : Prop :=
  ∀ s t : State, step s = .next t → s.agenda.head? ≠ some .reset →
    (t.rtcw ≠ s.rtcw → s.agenda.head? = some .htick ∨ ∃ k, s.running = some (.ckcommit, k)) ∧
    (t.wren ≠ s.wren ∨ t.prot ≠ s.prot ∨ t.keyst ≠ s.keyst ∨ t.irqinh ≠ s.irqinh →
      ∃ k, s.running = some (.ckcommit, k)) ∧
    (t.almif ≠ s.almif → (s.agenda.head? = some .htick ∧ t.almif = true) ∨
      (s.agenda.head? = some .almack ∧ t.almif = false)) ∧
    (t.alrmw ≠ s.alrmw → ∃ k, s.running = some (.setalm, k)) ∧
    (t.alcfg ≠ s.alcfg → s.agenda.head? = some .htick ∨ s.agenda.head? = some .almack ∨
      ∃ k, s.running = some (.setalm, k) ∨ ∃ m, s.running = some (.armalm m, k))

/-- R219, R220: WKDAY computes the source's formula on binary operands, the day tested against 31 only,
and refuses operands outside its domain. Nothing but the response changes. -/
def Obligations.WkdayComputesTheFormula : Prop :=
  ∀ (y m d : Byte) (s : State),
    let bad := 99 < y.toNat ∨ m.toNat < 1 ∨ 12 < m.toNat ∨ d.toNat < 1 ∨ 31 < d.toNat
    let offset := 6 + y.toNat + y.toNat / 4 +
      [0, 3, 3, 6, 1, 4, 6, 2, 5, 0, 3, 5].getD (m.toNat - 1) 0 + d.toNat
    (bad → exec (.wkday y m d) s = .next (s.failed .badArg)) ∧
    (¬ bad → exec (.wkday y m d) s = .next (s.responded (BitVec.ofNat 32
      ((if y.toNat % 4 = 0 ∧ m.toNat < 3 then offset - 1 else offset) % 7)) [] false))

/-- R218, R221 to R225: SETSEC and SETMIN (60 and above become 0), SETHOUR (24 and above become 0) and
SETMON (0 becomes 12, above 12 becomes 1, the stored day not looked at) store the value, in BCD, in
the one field of the target, `PRI` for 0 and `ALM` for 1, return both forms of it and set `W` exactly
when they wrapped; any other target is refused. Nothing else changes. -/
def Obligations.FieldSettersWrapAndStore : Prop :=
  ∀ (a v : Byte) (s : State),
    let n := v.toNat
    let bcd := fun x : Nat => BitVec.ofNat 8 (x / 10 * 16 + x % 10)
    let out := fun (x : Nat) (w : Bool) =>
      s.responded (BitVec.ofNat 32 (256 * (x / 10 * 16 + x % 10) + x)) [] w
    let x60 := if 60 ≤ n then 0 else n
    let x24 := if 24 ≤ n then 0 else n
    let xm := if n < 1 then 12 else if 12 < n then 1 else n
    (exec (.setsec 0#8 v) s = .next { out x60 (60 ≤ n) with pri := { s.pri with sec := bcd x60 } } ∧
     exec (.setsec 1#8 v) s = .next { out x60 (60 ≤ n) with alm := { s.alm with sec := bcd x60 } }) ∧
    (exec (.setmin 0#8 v) s = .next { out x60 (60 ≤ n) with pri := { s.pri with min := bcd x60 } } ∧
     exec (.setmin 1#8 v) s = .next { out x60 (60 ≤ n) with alm := { s.alm with min := bcd x60 } }) ∧
    (exec (.sethour 0#8 v) s = .next { out x24 (24 ≤ n) with pri := { s.pri with hour := bcd x24 } } ∧
     exec (.sethour 1#8 v) s = .next { out x24 (24 ≤ n) with alm := { s.alm with hour := bcd x24 } }) ∧
    (exec (.setmon 0#8 v) s = .next
       { out xm (n < 1 ∨ 12 < n) with pri := { s.pri with month := bcd xm } } ∧
     exec (.setmon 1#8 v) s = .next
       { out xm (n < 1 ∨ 12 < n) with alm := { s.alm with month := bcd xm } }) ∧
    (1 < a.toNat →
      exec (.setsec a v) s = .next (s.failed .badArg) ∧
      exec (.setmin a v) s = .next (s.failed .badArg) ∧
      exec (.sethour a v) s = .next (s.failed .badArg) ∧
      exec (.setmon a v) s = .next (s.failed .badArg))

/-- R226, with R14, R218, R221: SETDAY wraps 0 to the last day of the month stored in the target, and a
day above it to 1; any other target is refused. The stored date is field-valid (R34). Nothing else
changes. -/
def Obligations.SetdayWrapsAtTheMonthsEnd : Prop :=
  ∀ (a v : Byte) (s : State),
    let n := v.toNat
    let last := fun y m : Nat =>
      [31, if y % 4 = 0 then 29 else 28, 31, 30, 31, 30, 31, 31, 30, 31, 30, 31].getD (m - 1) 0
    let x := fun ld => if n = 0 then ld else if ld < n then 1 else n
    let bcd := fun ld => BitVec.ofNat 8 (x ld / 10 * 16 + x ld % 10)
    let out := fun ld =>
      s.responded (BitVec.ofNat 32 (256 * (x ld / 10 * 16 + x ld % 10) + x ld)) [] (n = 0 ∨ ld < n)
    (snapValid s.pri = true →
      let ld := last (bcd2bin s.pri.year) (bcd2bin s.pri.month)
      exec (.setday 0#8 v) s = .next { out ld with pri := { s.pri with day := bcd ld } }) ∧
    (alarmValid s.alm = true →
      let ld := last (bcd2bin s.alm.year) (bcd2bin s.alm.month)
      exec (.setday 1#8 v) s = .next { out ld with alm := { s.alm with day := bcd ld } }) ∧
    (1 < a.toNat → exec (.setday a v) s = .next (s.failed .badArg))

/-- R227, with R218, R221: SETYEAR wraps 100 and above to 0 and re-validates the stored day by the day
rule, whatever the month; bit 16 of `R` tells that the day was adjusted; any other target is refused.
Nothing else changes. -/
def Obligations.SetyearRevalidatesTheDay : Prop :=
  ∀ (a v : Byte) (s : State),
    let n := v.toNat
    let x := if 100 ≤ n then 0 else n
    let bcd := BitVec.ofNat 8 (x / 10 * 16 + x % 10)
    let adjusted := fun month day : Byte => decide (lastday x (bcd2bin month) < bcd2bin day)
    let out := fun adj : Bool => s.responded
      (BitVec.ofNat 32 ((if adj then 65536 else 0) + 256 * (x / 10 * 16 + x % 10) + x)) []
      (decide (100 ≤ n) || adj)
    (let adj := adjusted s.pri.month s.pri.day
     let day := if adj then 0x01#8 else s.pri.day
     exec (.setyear 0#8 v) s = .next { out adj with pri := { s.pri with year := bcd, day := day } }) ∧
    (let adj := adjusted s.alm.month s.alm.day
     let day := if adj then 0x01#8 else s.alm.day
     exec (.setyear 1#8 v) s = .next { out adj with alm := { s.alm with year := bcd, day := day } }) ∧
    (1 < a.toNat → exec (.setyear a v) s = .next (s.failed .badArg))

/-- What R228 derives from R226 and R227: after SETDAY and after SETYEAR the target is date-valid, whatever it was before, if it was
field-valid. -/
def Obligations.DayAndYearSettersLeaveRealDates : Prop :=
  ∀ (v : Byte) (i : Byte → Instr) (s : State), i = (fun a => .setday a v) ∨ i = (fun a => .setyear a v) →
    (snapValid s.pri = true → ∃ t, exec (i 0#8) s = .next t ∧ dateValid t.pri = true) ∧
    (alarmValid s.alm = true → ∃ t, exec (i 1#8) s = .next t ∧ alarmValid t.alm = true ∧
      bcd2bin t.alm.day ≤ lastday (bcd2bin t.alm.year) (bcd2bin t.alm.month))

/-- R230, R83 (1): the five micro-steps of SETALM: the enable is cleared first, and only then are the
alarm words loaded from `ALM`, the year first, the weekday derived from its date; and the whole of it
run alone from Idle, in 6 atomic steps where R335 counts 5: acceptance (R27) is one more by log 3, the
model's reading. The mask, `ALMIF`, `ALM` and everything else stay. -/
def Obligations.SetalmDisablesThenLoads : Prop :=
  ∀ (s : State) (cmd : CmdWord) (pl : List Byte),
    let p := s.alm
    let wd := BitVec.ofNat 8 (weekday (bcd2bin p.year) (bcd2bin p.month) (bcd2bin p.day))
    (s.seq = .busy cmd pl 1 → exec .setalm s = .next { s with
      alcfg := s.alcfg &&& 0x7F#8, seq := .busy cmd pl 2 }) ∧
    (s.seq = .busy cmd pl 2 → exec .setalm s = .next { s with
      alrmw := { s.alrmw with w3 := packWord 0x00#8 p.year }, seq := .busy cmd pl 3 }) ∧
    (s.seq = .busy cmd pl 3 → exec .setalm s = .next { s with
      alrmw := { s.alrmw with w2 := packWord p.month p.day }, seq := .busy cmd pl 4 }) ∧
    (s.seq = .busy cmd pl 4 → exec .setalm s = .next { s with
      alrmw := { s.alrmw with w1 := packWord wd p.hour }, seq := .busy cmd pl 5 }) ∧
    (s.seq = .busy cmd pl 5 → exec .setalm s = .next { s.responded 0#32 [] false with
      alrmw := { s.alrmw with w0 := packWord p.min p.sec } }) ∧
    (s.seq = .idle →
      exec .setalm s = .next { s with seq := .busy s.portCmd s.portPl 1 } ∧
      execRun .setalm 6 s = .next { s.responded 0#32 [] false with
        alcfg := s.alcfg &&& 0x7F#8
        alrmw := ⟨packWord p.min p.sec, packWord wd p.hour, packWord p.month p.day,
          packWord 0x00#8 p.year⟩ })

/-- R232, R83 (2): ARMALM writes the granularity in its first micro-step and sets the enable bit in its
last; a mask above 9 is refused with nothing but the response changed; and the whole of it run alone
from Idle, in 3 atomic steps, or 2 if refused, where R335 counts 2 and 1: acceptance (R27) is one more
by log 3, the model's reading. Only the named bits of `ALCFG` change, and nothing else. -/
def Obligations.ArmalmSetsMaskThenEnables : Prop :=
  ∀ (m : BitVec 4) (s : State) (cmd : CmdWord) (pl : List Byte),
    (s.seq = .busy cmd pl 1 → m.toNat ≤ 9 →
      ∃ g, exec (.armalm m) s = .next { s with alcfg := g, seq := .busy cmd pl 2 } ∧
        g.extractLsb' 0 4 = m ∧ g.extractLsb' 4 4 = s.alcfg.extractLsb' 4 4) ∧
    (s.seq = .busy cmd pl 1 → 9 < m.toNat → exec (.armalm m) s = .next (s.failed .badArg)) ∧
    (s.seq = .busy cmd pl 2 →
      ∃ g, exec (.armalm m) s = .next { s.responded 0#32 [] false with alcfg := g } ∧
        g.extractLsb' 0 7 = s.alcfg.extractLsb' 0 7 ∧ g.getLsbD 7 = true) ∧
    (s.seq = .idle →
      exec (.armalm m) s = .next { s with seq := .busy s.portCmd s.portPl 1 } ∧
      (m.toNat ≤ 9 →
        ∃ g, execRun (.armalm m) 3 s = .next { s.responded 0#32 [] false with alcfg := g } ∧
          g.extractLsb' 0 4 = m ∧ g.extractLsb' 4 3 = s.alcfg.extractLsb' 4 3 ∧ g.getLsbD 7 = true) ∧
      (9 < m.toNat → execRun (.armalm m) 2 s = .next (s.failed .badArg)))

/-- R236: RDSNAP returns the selected snapshot's bytes in field order, and refuses other selectors. -/
def Obligations.RdsnapReturnsTheSnapshot : Prop :=
  ∀ (a : Byte) (s : State),
    exec (.rdsnap 0#8) s = .next (s.responded 7#32
      [s.pri.sec, s.pri.min, s.pri.hour, s.pri.weekday, s.pri.day, s.pri.month, s.pri.year] false) ∧
    exec (.rdsnap 1#8) s = .next (s.responded 6#32
      [s.alm.sec, s.alm.min, s.alm.hour, s.alm.day, s.alm.month, s.alm.year] false) ∧
    exec (.rdsnap 2#8) s = .next (s.responded 7#32
      [s.chk.sec, s.chk.min, s.chk.hour, s.chk.weekday, s.chk.day, s.chk.month, s.chk.year] false) ∧
    (2 < a.toNat → exec (.rdsnap a) s = .next (s.failed .badArg))

/-- R238: every field of the word RDSTAT returns; the length reads 0 while the buffer is unspecified. A
length of 65536 or more, which an `FB_SIZE` of that size admits, shows its low 16 bits by log 29, the
model's reading. -/
def Obligations.RdstatReturnsTheStatusBits : Prop :=
  ∀ s : State,
    ∃ r : Word, exec .rdstat s = .next (s.responded r [] false) ∧
      r.extractLsb' 0 3 = s.fbk.code ∧ r.getLsbD 3 = s.almif ∧ r.getLsbD 4 = s.alcfg.getLsbD 7 ∧
      r.extractLsb' 5 4 = s.alcfg.extractLsb' 0 4 ∧ r.getLsbD 9 = s.wren ∧ r.getLsbD 10 = s.half ∧
      r.getLsbD 11 = s.irqinh ∧ r.extractLsb' 12 2 = s.keyst ∧ r.extractLsb' 14 2 = 0#2 ∧
      r.extractLsb' 16 16 = if s.fbk = .unspec then 0#16 else BitVec.ofNat 16 s.fblen

/-! ## The running clock and the alarm -/

/-- R275, R279: one HTICK toggles the phase, advances the words exactly on a second edge, and then, if
the alarm is enabled and matches, sets `ALMIF` and clears `ALRMEN` alone; nothing else changes,
whatever the sequencer, `WREN` and `IRQINH` are (in an UNSPEC buffer what is unspecified is so anew at
every step, R43, log 6: `renewFree`, which StepRunsTheDecodedInstruction describes). -/
def Obligations.HtickTogglesAdvancesAndCompares : Prop :=
  ∀ (s : State) (rest : List Event), s.agenda = .htick :: rest →
    let words := if s.half then advanceWords s.rtcw else s.rtcw
    let fires := s.alcfg.getLsbD 7 && alarmMatch (s.alcfg.extractLsb' 0 4) s.half words s.alrmw
    step s = .next { s.renewFree with
      agenda := rest
      half := !s.half
      rtcw := words
      almif := s.almif || fires
      alcfg := if fires then s.alcfg &&& 0x7F#8 else s.alcfg }

/-- R275: on field-valid words a second edge makes the time of day one second later; before midnight
the weekday and the date stay; at midnight the weekday advances modulo 7 and a day at or beyond the
last of the month becomes day 1 of the next month, the year after 99 being 0. -/
def Obligations.SecondEdgeAdvancesTheTime : Prop :=
  ∀ w : ClockWords, wordsValid w = true →
    let p := wordsSnap w
    let q := wordsSnap (advanceWords w)
    let day := bcd2bin p.day
    let month := bcd2bin p.month
    let year := bcd2bin p.year
    wordsValid (advanceWords w) = true ∧
    secondOfDay q = (secondOfDay p + 1) % 86400 ∧
    (secondOfDay p ≠ 86399 →
      q.weekday = p.weekday ∧ q.day = p.day ∧ q.month = p.month ∧ q.year = p.year) ∧
    (secondOfDay p = 86399 →
      bcd2bin q.weekday = (bcd2bin p.weekday + 1) % 7 ∧
      (day < lastday year month →
        bcd2bin q.day = day + 1 ∧ q.month = p.month ∧ q.year = p.year) ∧
      (lastday year month ≤ day → bcd2bin q.day = 1 ∧
        (month < 12 → bcd2bin q.month = month + 1 ∧ q.year = p.year) ∧
        (month = 12 → bcd2bin q.month = 1 ∧ bcd2bin q.year = (year + 1) % 100)))

/-- R275's derived claim, where it holds: a second edge keeps a valid clock value valid (the date exists
and the weekday is the formula's, R34), except at the last second of year 99. There it does not: from
Thursday 31 December 2099 the weekday goes on to 5, and R219 gives 6 for 1 January of year 0 (R275's
own example has the weekday 03 to 04 there; see log 28). -/
def Obligations.TickKeepsTheClockValidWithinTheCentury : Prop :=
  (∀ w : ClockWords, clockValid (wordsSnap w) = true →
    ¬ (secondOfDay (wordsSnap w) = 86399 ∧ bcd2bin (wordsSnap w).day = 31 ∧
       bcd2bin (wordsSnap w).month = 12 ∧ bcd2bin (wordsSnap w).year = 99) →
    clockValid (wordsSnap (advanceWords w)) = true) ∧
  (∃ w : ClockWords, clockValid (wordsSnap w) = true ∧
    clockValid (wordsSnap (advanceWords w)) = false)

/-- R278: the table of the ten granularities. -/
def Obligations.AlarmComparesByGranularity : Prop :=
  ∀ (edge : Bool) (t a : ClockWords),
    let T := wordsSnap t
    let A := wordsSnap a
    let hms := edge = true ∧ T.sec = A.sec ∧ T.min = A.min ∧ T.hour = A.hour
    alarmMatch 0#4 edge t a = true ∧
    (alarmMatch 1#4 edge t a = true ↔ edge = true) ∧
    (alarmMatch 2#4 edge t a = true ↔ edge = true ∧ T.sec.toNat % 16 = A.sec.toNat % 16) ∧
    (alarmMatch 3#4 edge t a = true ↔ edge = true ∧ T.sec = A.sec) ∧
    (alarmMatch 4#4 edge t a = true ↔ edge = true ∧ T.sec = A.sec ∧ T.min.toNat % 16 = A.min.toNat % 16) ∧
    (alarmMatch 5#4 edge t a = true ↔ edge = true ∧ T.sec = A.sec ∧ T.min = A.min) ∧
    (alarmMatch 6#4 edge t a = true ↔ hms) ∧
    (alarmMatch 7#4 edge t a = true ↔ hms ∧ T.weekday = A.weekday) ∧
    (alarmMatch 8#4 edge t a = true ↔ hms ∧ T.day = A.day) ∧
    (alarmMatch 9#4 edge t a = true ↔ hms ∧ T.day = A.day ∧ T.month = A.month)

/-- R282: ALMACK clears `ALMIF` and sets `ALRMEN` in one step, exactly when `ALMIF = 1` and
`IRQINH = 0`. Scheduled otherwise it does not occur (the model's reading, log 17). Nothing else changes
(in an UNSPEC buffer what is unspecified is so anew, R43, log 6). -/
def Obligations.AlmackAcknowledgesAndRearms : Prop :=
  ∀ (s : State) (rest : List Event), s.agenda = .almack :: rest →
    step s = .next (if s.almif = true ∧ s.irqinh = false then
        { s.renewFree with agenda := rest, almif := false, alcfg := s.alcfg &&& 0x7F#8 ||| 0x80#8 }
      else { s.renewFree with agenda := rest })

/-! ## Responses -/

/-- R22 to R24 (R261 derives the same): an instruction after which a command has ended with a status other than OK leaves
`R = 0`, `W = 0` and `RB` empty, and no command ends with `W = 1` but a setter. -/
def Obligations.FailuresReturnNothing : Prop :=
  ∀ (i : Instr) (s t : State), isCommand i = true → exec i s = .next t → t.seq = .idle →
    (t.st ≠ .ok → t.r = 0#32 ∧ t.w = false ∧ t.rb = []) ∧
    (t.w = true → ∃ a v, i = .setsec a v ∨ i = .setmin a v ∨ i = .sethour a v ∨ i = .setday a v ∨
      i = .setmon a v ∨ i = .setyear a v)

/-- R43, R160, R238: no unspecified value reaches a result. Two states that differ only in what is
unspecified (the free bytes, and the length while the tag is UNSPEC) give the same response, send the
same bytes and set the same tag, for an instruction run from Idle or the command in progress. -/
def Obligations.UnspecifiedBytesNeverReachAResult : Prop :=
  ∀ (i : Instr) (s t : State) (e m : Nat), s.bufOk →
    (s.seq = .idle ∨ ∃ k, s.running = some (i, k)) → exec i s = .next t →
    ∃ t', exec i { s with freeCount := e, fblen := if s.fbk = .unspec then m else s.fblen } = .next t' ∧
      t'.st = t.st ∧ t'.w = t.w ∧ t'.r = t.r ∧ t'.rb = t.rb ∧ t'.tx = t.tx ∧ t'.fbk = t.fbk ∧ t'.seq = t.seq

/-! ## The wire formats -/

/-- R84, R85, R104 to R108, as the model reads the four wire rows (log 9): a request frame's bytes,
header fields high byte first and checksum low byte first, go out on the wire in index order; a
response frame's bytes arrive and wait behind what already waits, one for each later poll; the block
is unchanged. -/
def Obligations.WireFramesPassUnchanged : Prop :=
  ∀ (sl : Byte) (a n : Half) (ko : Option Byte) (k : Byte) (pl body : List Byte) (l h : Byte)
    (s : State),
    exec (.req03 sl a n l h) s = .next { s with
      tx := s.tx ++ [sl, 0x03#8, hiByte a, loByte a, hiByte n, loByte n, l, h] } ∧
    exec (.req16 sl a n ko pl l h) s = .next { s with
      tx := s.tx ++ ([sl, 0x10#8, hiByte a, loByte a, hiByte n, loByte n] ++ ko.toList ++ pl ++ [l, h]) } ∧
    exec (.rsp03 sl k pl l h) s = .next { s with
      rx := s.rx ++ ([sl, 0x03#8, k] ++ pl ++ [l, h]).map some } ∧
    exec (.rsp16 body l h) s = .next { s with rx := s.rx ++ (body ++ [l, h]).map some }

/-! ## Decoding -/

/-- R100 to R111: decode and encode agree on every well-formed instruction, with every operand at every
value its encoding admits. -/
def Obligations.DecodeOfEncodeIsIdentity : Prop :=
  ∀ (P : Params) (i : Instr), i.wf P = true → decode P.wrByteCount (encode i) = .ok i

/-- R100, R102, R103 (a), (b), R111: the opcode map. A word of a listed `op` decodes to its command with
the operands the table names, whatever the ignored fields and the unused high bits hold; a word of any
other `op` decodes to nothing. Every word is one of these: it is its four fields. -/
def Obligations.OpcodeMapIsTheTable : Prop :=
  ∀ (op a : Byte) (b c : Half) (pl : List Byte) (cmd : CmdWord),
    let dec := fun op => decodeCommand (cmdWord op a b c) pl
    cmd = cmdWord (cmd.extractLsb' 40 8) (cmd.extractLsb' 32 8) (cmd.extractLsb' 16 16)
      (cmd.extractLsb' 0 16) ∧
    (dec 0x01#8 = .ok (.bldrd a b c) ∧ dec 0x02#8 = .ok (.bldwr a b pl) ∧ dec 0x03#8 = .ok (.seal pl) ∧
     dec 0x04#8 = .ok .verify ∧ dec 0x05#8 = .ok (.ldfb pl) ∧ dec 0x06#8 = .ok .rdfb ∧
     dec 0x07#8 = .ok (.crc16 pl)) ∧
    (dec 0x10#8 = .ok (.decf32s c) ∧ dec 0x11#8 = .ok (.deci32 c) ∧ dec 0x12#8 = .ok (.decu16 c) ∧
     dec 0x13#8 = .ok (.decstr a c) ∧ dec 0x14#8 = .ok (.decbcd6 c)) ∧
    (dec 0x20#8 = .ok (.rdhold a b c) ∧ dec 0x21#8 = .ok (.wrmult a b pl) ∧ dec 0x22#8 = .ok .unlock) ∧
    (dec 0x30#8 = .ok .ckread ∧ dec 0x31#8 = .ok .ckcommit ∧
     dec 0x32#8 = .ok (.wkday a (b.extractLsb' 0 8) (c.extractLsb' 0 8)) ∧
     dec 0x33#8 = .ok (.setsec a (c.extractLsb' 0 8)) ∧ dec 0x34#8 = .ok (.setmin a (c.extractLsb' 0 8)) ∧
     dec 0x35#8 = .ok (.sethour a (c.extractLsb' 0 8)) ∧ dec 0x36#8 = .ok (.setday a (c.extractLsb' 0 8)) ∧
     dec 0x37#8 = .ok (.setmon a (c.extractLsb' 0 8)) ∧ dec 0x38#8 = .ok (.setyear a (c.extractLsb' 0 8)) ∧
     dec 0x39#8 = .ok .setalm ∧ dec 0x3A#8 = .ok (.armalm (c.extractLsb' 0 4)) ∧
     dec 0x3B#8 = .ok (.rdsnap a) ∧ dec 0x3C#8 = .ok .rdstat) ∧
    (op ∉ [0x01#8, 0x02#8, 0x03#8, 0x04#8, 0x05#8, 0x06#8, 0x07#8, 0x10#8, 0x11#8, 0x12#8, 0x13#8,
        0x14#8, 0x20#8, 0x21#8, 0x22#8, 0x30#8, 0x31#8, 0x32#8, 0x33#8, 0x34#8, 0x35#8, 0x36#8, 0x37#8,
        0x38#8, 0x39#8, 0x3A#8, 0x3B#8, 0x3C#8] → dec op = .error (.illegalOp op))

/-- Words decode to their commands. The first four and the last are printed in
spec/95_test_vectors.md; 0x3A0000000013 is the word R100 and R102 give V73's ARMALM with `c = 0x13`,
whose high bits have no effect (the vectors print no word for it). That a table word of 48 bits is a
command word with an empty payload is log 25, the model's choice. -/
def Obligations.SampleWordsDecode : Prop :=
  decodeTableWord 48 0x01F712340001 = some (.bldrd 0xF7#8 0x1234#16 0x0001#16) ∧
  decodeTableWord 48 0x130300000003 = some (.decstr 0x03#8 0x0003#16) ∧
  decodeTableWord 48 0x200100000002 = some (.rdhold 0x01#8 0x0000#16 0x0002#16) ∧
  decodeTableWord 48 0x3208000C001F = some (.wkday 0x08#8 0x0C#8 0x1F#8) ∧
  decodeTableWord 48 0x3A0000000013 = some (.armalm 0x3#4) ∧
  decodeTableWord 48 0x080000000000 = none

/-! ## The step -/

/-- R27, R88, R100: with a command of a listed `op` and a fitting payload at the head of the agenda and
the sequencer Idle, a step is exec of the decoded instruction, its word and payload at the port; while
the sequencer is Busy the port is closed and the step is the next micro-step of the command in
progress, whether it moves by default, by its own event or with a command waiting. With a wire frame
at the head, a step is exec of the decoded frame, in any state of the sequencer (log 1, log 9). A step
first makes anew what is unspecified: the epoch and the length, and only while the tag is UNSPEC
(R43, log 6, log 7). -/
def Obligations.StepRunsTheDecodedInstruction : Prop :=
  ∀ (s : State) (i : Instr) (rest : List Event),
    ((s.fbk ≠ .unspec → s.renewFree = s) ∧
      ∃ n e, s.renewFree = { s with fblen := n, freeCount := e } ∧
        (s.fbk = .unspec → n ≤ s.params.fbSize ∧ e = s.freeCount + 1)) ∧
    (∀ cmd pl, decodeCommand cmd pl = .ok i →
      (s.agenda = .input (.command cmd pl) :: rest → s.seq = .idle → pl.length ≤ s.params.fbSize →
        step s = exec i { s.renewFree with agenda := rest, portCmd := cmd, portPl := pl }) ∧
      (∀ k, s.seq = .busy cmd pl k →
        (s.agenda = [] → step s = exec i s.renewFree) ∧
        (s.agenda = .micro :: rest → step s = exec i { s.renewFree with agenda := rest }) ∧
        (∀ w ops, s.agenda = .input (.command w ops) :: rest → step s = exec i s.renewFree))) ∧
    (∀ fmt bytes, decodeFrame s.params.wrByteCount fmt bytes = .ok i →
      s.agenda = .input (.wire fmt bytes) :: rest →
      step s = exec i { s.renewFree with agenda := rest })

/-- R103 (a): a word whose `op` is not listed ends at once with IllegalOp and changes no other state
(the host's word and payload stand at the port, an input; in an UNSPEC buffer what is unspecified is so
anew, R43, log 6). -/
def Obligations.IllegalOpEndsAtOnce : Prop :=
  ∀ (s : State) (cmd : CmdWord) (pl : List Byte) (op : Byte) (rest : List Event),
    decodeCommand cmd pl = .error (.illegalOp op) → s.seq = .idle →
    s.agenda = .input (.command cmd pl) :: rest →
    step s = .next { s.renewFree.failed .illegalOp with agenda := rest, portCmd := cmd, portPl := pl }

/-- R60, R310 to R312: RESET, in any state and also inside a command, gives every piece of state its
value of the table; the transport, the inputs at the port, the parameters and the agenda are not
touched, and no buffer byte is specified. With the default parameters the time is 2000-01-01 00:00:00,
weekday 6. (The agenda, the port and the transport's fields are the model's own, log 1, 22.) -/
def Obligations.ResetGivesTheTableOfValues : Prop :=
  State.reset.rtcw = ⟨0x0000#16, 0x0600#16, 0x0101#16, 0x0000#16⟩ ∧ State.reset.half = false ∧
  ∀ (s : State) (rest : List Event), s.agenda = .reset :: rest →
    ∃ t, step s = .next t ∧
      t.st.code = 0#4 ∧ t.w = false ∧ t.r = 0#32 ∧ t.rb = [] ∧ t.seq = .idle ∧
      t.idx = 0 ∧ t.pollcnt = 0 ∧ t.explen = 0 ∧
      (∀ i, Memory.get? t.fb i = none) ∧ t.fblen = 0 ∧ t.fbk.code = 0#3 ∧
      t.rtcw = s.params.resetTime ∧ t.half = s.params.resetHalf ∧
      snapBytes t.pri = [0x00#8, 0x00#8, 0x00#8, 0x06#8, 0x01#8, 0x01#8, 0x00#8] ∧ t.chk = t.pri ∧
      alarmBytes t.alm = [0x00#8, 0x00#8, 0x00#8, 0x01#8, 0x01#8, 0x00#8] ∧
      t.alrmw = ⟨0x0000#16, 0x0600#16, 0x0101#16, 0x0000#16⟩ ∧
      t.alcfg = 0x00#8 ∧ t.wren = false ∧ t.prot = 0x00#8 ∧ t.keyst = 0#2 ∧ t.almif = false ∧
      t.irqinh = false ∧
      t.params = s.params ∧ t.tx = s.tx ∧ t.rx = s.rx ∧ t.rxCount = s.rxCount ∧
      t.portCmd = s.portCmd ∧ t.portPl = s.portPl ∧ t.agenda = rest

/-! ## Invariants of every step -/

/-- The buffer's data keeps its canonical form (strictly rising indices below `FB_SIZE`), from every
state that has it (the form is the model's, log 6; the bound is R40's), and the parameters, which are
fixed for a given block (R9), are written by no step (log 4). -/
def Obligations.StepKeepsMemoryCanonical : Prop :=
  ∀ s t : State, step s = .next t → t.params = s.params ∧ (s.memOk → t.memOk)

/-- The invariant R34 derives from R60, R210 to R236 and R275: after every micro-step and every event, `PRI`, `CHK`, `ALM` and the fields of
`RTCW` and `ALRMW` are field-valid. -/
def Obligations.StepKeepsClockFieldValid : Prop :=
  ∀ s t : State, s.clockOk → step s = .next t → t.clockOk

/-- R38: the reserved bits of `ALCFG` read as zero and masks 10 to 15 are never stored. -/
def Obligations.StepKeepsAlcfgLegal : Prop :=
  ∀ s t : State, s.alcfgOk → step s = .next t → t.alcfgOk

/-- R39, R44, R46, R214: outside CKCOMMIT the lock is at rest, and inside it `KEYST`, `WREN` and
`IRQINH` go through the numbered sequence, whatever events fall between its steps, so that its four
writes always happen. -/
def Obligations.StepKeepsLockSequence : Prop :=
  ∀ s t : State, s.lockOk → step s = .next t → t.lockOk

/-- R42, R180 to R186: the tag tells the truth about the buffer (EMPTY means length 0; GOOD means the last
two bytes are the checksum of the bytes before them; BAD means they are not, or the frame is shorter
than two bytes; and no byte of a frame tagged otherwise than UNSPEC is
unspecified), and a transaction in progress has its request fitting, its bytes received so far in the
buffer and its budget within `POLL_BUDGET`. -/
def Obligations.StepKeepsBufferTagTruthful : Prop :=
  ∀ s t : State, s.params.ok = true → s.bufOk → step s = .next t → t.bufOk

/-- R27, R335: the sequencer is Idle or at an existing micro-step of a command of more than one. -/
def Obligations.StepKeepsSequencerLegal : Prop :=
  ∀ s t : State, s.seqOk → step s = .next t → t.seqOk

/-- Every invariant holds in the state after reset (R60), with the default parameters and with any that
R9 allows. -/
def Obligations.ResetStateIsLegal : Prop :=
  State.reset.Inv ∧ ∀ P : Params, P.ok = true → (State.resetOf P).Inv

/-- From a state with the invariants, with an input the spec admits at the head of the agenda, the
machine steps: no fault, no refusal. -/
def Obligations.LegalStatesNeverStop : Prop :=
  ∀ s : State, s.Inv → s.inputOk → ∃ t, step s = .next t

/-! ## Any bytes on the wire -/

/-- R84, R85, R110, R194: what the wire carries is carried whatever it is, a frame of its format or not
(an error reply, a frame cut short, another function code): bytes that travel from the instrument wait
behind what already waits, one for each later poll, and bytes that travel towards it are logged as
sent; the block is unchanged (in an UNSPEC buffer what is unspecified is so anew, R43, log 6). That such
bytes are an event of their own is the model's choice, log 9 and log 16. -/
def Obligations.WireEventsCarryAnyBytes : Prop :=
  ∀ (s : State) (fmt : WireFormat) (bytes : List Byte) (rest : List Event),
    s.agenda = .input (.wire fmt bytes) :: rest →
    ((fmt = .req03 ∨ fmt = .req16) →
      step s = .next { s.renewFree with agenda := rest, tx := s.tx ++ bytes }) ∧
    ((fmt = .rsp03 ∨ fmt = .rsp16) →
      step s = .next { s.renewFree with agenda := rest, rx := s.rx ++ bytes.map some })
end

