-- ==== Sys2Proof/Laws/Calendar.lean ====
section
/-! SUPPORT. BCD and the calendar on their domains (R13, R14, R34, R219). -/

namespace Sys2Proof.Machine

set_option Elab.async false

/-- `bcd2bin` and the ranges do nothing surprising on any byte: checked on all 256. -/
theorem bcd2bin_bin2bcd {v : Nat} (h : v ≤ 99) : bcd2bin (bin2bcd v) = v := by
  have key : ∀ w : Fin 100, bcd2bin (bin2bcd w.val) = w.val := by decide
  exact key ⟨v, by omega⟩

theorem isBcd_bin2bcd {v : Nat} (h : v ≤ 99) : isBcd (bin2bcd v) = true := by
  have key : ∀ w : Fin 100, isBcd (bin2bcd w.val) = true := by decide
  exact key ⟨v, by omega⟩

theorem bcd2bin_le_of_isBcd {b : Byte} (h : isBcd b = true) : bcd2bin b ≤ 99 := by
  simp only [isBcd, Bool.and_eq_true, decide_eq_true_eq] at h
  unfold bcd2bin
  omega

theorem bin2bcd_bcd2bin {b : Byte} (h : isBcd b = true) : bin2bcd (bcd2bin b) = b := by
  have hb := bcd2bin_le_of_isBcd h
  simp only [isBcd, Bool.and_eq_true, decide_eq_true_eq] at h
  unfold bin2bcd
  rw [if_pos hb]
  apply BitVec.eq_of_toNat_eq
  rw [BitVec.toNat_ofNat]
  have := b.isLt
  unfold bcd2bin tens units at *
  omega

theorem fieldOk_iff {lo hi : Nat} {b : Byte} :
    fieldOk lo hi b = true ↔ isBcd b = true ∧ lo ≤ bcd2bin b ∧ bcd2bin b ≤ hi := by
  simp [fieldOk, and_assoc]

/-- A number inside a field's range is stored as a valid field. -/
theorem fieldOk_bin2bcd {lo hi v : Nat} (h1 : lo ≤ v) (h2 : v ≤ hi) (h3 : hi ≤ 99) :
    fieldOk lo hi (bin2bcd v) = true := by
  rw [fieldOk_iff, bcd2bin_bin2bcd (by omega)]
  exact ⟨isBcd_bin2bcd (by omega), h1, h2⟩

theorem lastday_range {y m : Nat} (h1 : 1 ≤ m) (h2 : m ≤ 12) (h3 : y ≤ 99) :
    28 ≤ lastday y m ∧ lastday y m ≤ 31 := by
  unfold lastday
  rw [if_pos ⟨h1, h2, h3⟩]
  have key : ∀ k : Fin 13, 1 ≤ k.val →
      28 ≤ daysPerMonth k.val ∧ daysPerMonth k.val ≤ 31 ∧ (k.val = 2 → daysPerMonth k.val = 28) := by
    decide
  have := key ⟨m, by omega⟩ h1
  simp only at this
  split <;> omega

theorem weekday_lt {y m d : Nat} (hy : y ≤ 99) (h1 : 1 ≤ m) (h2 : m ≤ 12) (h3 : 1 ≤ d) (h4 : d ≤ 31) :
    weekday y m d < 7 := by
  unfold weekday
  rw [if_pos ⟨hy, h1, h2, h3, h4⟩]
  exact Nat.mod_lt _ (by omega)

end Sys2Proof.Machine
end

