-- ==== Sys2Proof/Laws/Crc.lean ====
section
/-! SUPPORT. Small facts about frames and the checksum. -/

namespace Sys2Proof.Machine

set_option Elab.async false

@[simp] theorem length_be16 (v : Half) : (be16 v).length = 2 := rfl

@[simp] theorem length_le16 (v : Half) : (le16 v).length = 2 := rfl

@[simp] theorem length_frame (s : List Byte) : (frame s).length = s.length + 2 := by
  simp [frame]

@[simp] theorem length_readRequest (a : Byte) (b c : Half) : (readRequest a b c).length = 8 := by
  simp [readRequest]

theorem length_writeRequest (bc : Bool) (a : Byte) (b : Half) (pl : List Byte) :
    (writeRequest bc a b pl).length = 8 + (if bc then 1 else 0) + pl.length := by
  cases bc <;> simp [writeRequest] <;> omega

/-- The two bytes of a 16-bit value, put together again, low byte first. -/
theorem join_le (v : Half) :
    ((loByte v).setWidth 16 ||| ((hiByte v).setWidth 16 <<< 8)) = v := by
  apply BitVec.eq_of_getLsbD_eq
  intro i hi
  simp only [loByte, hiByte, BitVec.getLsbD_or, BitVec.getLsbD_setWidth, BitVec.getLsbD_shiftLeft,
    BitVec.getLsbD_extractLsb', Nat.zero_add]
  by_cases h : i < 8
  · simp [h, hi]
  · have h2 : i - 8 < 8 := by omega
    have h3 : 8 + (i - 8) = i := by omega
    have h4 : i - 8 < 16 := by omega
    simp [h, hi, h2, h3, h4]

/-- The two bytes of a 16-bit value, put together again, high byte first. -/
theorem join_be (v : Half) : (hiByte v ++ loByte v : BitVec 16) = v := by
  apply BitVec.eq_of_getLsbD_eq
  intro i hi
  simp only [loByte, hiByte, BitVec.getLsbD_append, BitVec.getLsbD_extractLsb', Nat.zero_add]
  by_cases h : i < 8
  · simp [h]
  · have h2 : i - 8 < 8 := by omega
    have h3 : 8 + (i - 8) = i := by omega
    simp [h, h2, h3]

theorem crc16_append (s t : List Byte) : crc16 (s ++ t) = t.foldl crcByte (crc16 s) := by
  simp [crc16]

/-- A built frame verifies (R131 b). -/
theorem verifyFrame_frame (s : List Byte) : verifyFrame (frame s) = true := by
  have h : ¬ (frame s).length < 2 := by simp
  unfold verifyFrame
  rw [if_neg h]
  simp only [length_frame, Nat.add_sub_cancel]
  have e1 : (frame s).take s.length = s := by simp [frame]
  have e2 : (frame s).getD s.length 0#8 = loByte (crc16 s) := by
    simp [frame, le16, List.getD_eq_getElem?_getD]
  have e3 : (frame s).getD (s.length + 2 - 1) 0#8 = hiByte (crc16 s) := by
    simp [frame, le16, List.getD_eq_getElem?_getD]
  rw [e1, e2, e3, join_le, beq_self_eq_true]

end Sys2Proof.Machine
end

