-- ==== Sys2Proof/Laws/Decode.lean ====
section
/-! SUPPORT. The fields of an encoded word (R100), and the parts of an encoded frame. -/

namespace Sys2Proof

set_option Elab.async false

open Sys2Proof.Machine

/-- Bit `i` of an encoded word, field by field. -/
theorem getLsbD_cmdWord (op a : Byte) (b c : Half) (i : Nat) (hi : i < 48) :
    (cmdWord op a b c).getLsbD i =
      if i < 16 then c.getLsbD i
      else if i < 32 then b.getLsbD (i - 16)
      else if i < 40 then a.getLsbD (i - 32)
      else op.getLsbD (i - 40) := by
  have hc : 16 ≤ i → c.getLsbD i = false := fun h => BitVec.getLsbD_of_ge _ _ h
  have hb : 32 ≤ i → b.getLsbD (i - 16) = false := fun h => BitVec.getLsbD_of_ge _ _ (by omega)
  have ha : 40 ≤ i → a.getLsbD (i - 32) = false := fun h => BitVec.getLsbD_of_ge _ _ (by omega)
  have k1 : i - 16 < 48 := by omega
  have k2 : i - 32 < 48 := by omega
  have k3 : i - 40 < 48 := by omega
  simp only [cmdWord, BitVec.getLsbD_or, BitVec.getLsbD_shiftLeft, BitVec.getLsbD_setWidth, hi, k1, k2, k3,
    decide_true, Bool.true_and]
  by_cases h1 : i < 16
  · simp [h1, show i < 32 by omega, show i < 40 by omega]
  · by_cases h2 : i < 32
    · simp [h1, h2, show i < 40 by omega, hc (by omega)]
    · by_cases h3 : i < 40
      · simp [h1, h2, h3, hc (by omega), hb (by omega)]
      · simp [h1, h2, h3, hc (by omega), hb (by omega), ha (by omega)]

@[simp] theorem opField_cmdWord (op a : Byte) (b c : Half) : opField (cmdWord op a b c) = op := by
  apply BitVec.eq_of_getLsbD_eq
  intro i hi
  simp only [opField, BitVec.getLsbD_extractLsb', hi, decide_true, Bool.true_and]
  rw [getLsbD_cmdWord _ _ _ _ _ (by omega), if_neg (by omega), if_neg (by omega), if_neg (by omega),
    Nat.add_sub_cancel_left]

@[simp] theorem aField_cmdWord (op a : Byte) (b c : Half) : aField (cmdWord op a b c) = a := by
  apply BitVec.eq_of_getLsbD_eq
  intro i hi
  simp only [aField, BitVec.getLsbD_extractLsb', hi, decide_true, Bool.true_and]
  rw [getLsbD_cmdWord _ _ _ _ _ (by omega), if_neg (by omega), if_neg (by omega), if_pos (by omega),
    Nat.add_sub_cancel_left]

@[simp] theorem bField_cmdWord (op a : Byte) (b c : Half) : bField (cmdWord op a b c) = b := by
  apply BitVec.eq_of_getLsbD_eq
  intro i hi
  simp only [bField, BitVec.getLsbD_extractLsb', hi, decide_true, Bool.true_and]
  rw [getLsbD_cmdWord _ _ _ _ _ (by omega), if_neg (by omega), if_pos (by omega),
    Nat.add_sub_cancel_left]

@[simp] theorem cField_cmdWord (op a : Byte) (b c : Half) : cField (cmdWord op a b c) = c := by
  apply BitVec.eq_of_getLsbD_eq
  intro i hi
  simp only [cField, BitVec.getLsbD_extractLsb', hi, decide_true, Bool.true_and]
  rw [getLsbD_cmdWord _ _ _ _ _ (by omega), if_pos (by omega), Nat.zero_add]

@[simp] theorem loByte_setWidth (v : Byte) : loByte (v.setWidth 16) = v := by
  apply BitVec.eq_of_getLsbD_eq
  intro i hi
  have h : i < 16 := by omega
  simp [loByte, hi, h]

/-- The low four bits of a narrow operand (ARMALM's mask, R111). -/
@[simp] theorem mask_setWidth (m : BitVec 4) : (m.setWidth 16).extractLsb' 0 4 = m := by
  apply BitVec.eq_of_getLsbD_eq
  intro i hi
  have h : i < 16 := by omega
  simp [hi, h]

/-- A command word decodes by its four fields. -/
@[simp] theorem decodeCommand_cmdWord (op a : Byte) (b c : Half) (pl : List Byte) :
    decodeCommand (cmdWord op a b c) pl = decodeFields op a b c pl := by
  simp [decodeCommand]

theorem splitChecksum_append (body : List Byte) (l h : Byte) :
    splitChecksum (body ++ [l, h]) = some (body, l, h) := by
  induction body with
  | nil => rfl
  | cons x body ih =>
    cases body with
    | nil => rfl
    | cons y ys =>
      have e : (x :: y :: ys) ++ [l, h] = x :: ((y :: ys) ++ [l, h]) := rfl
      rw [e]
      cases ys with
      | nil => rfl
      | cons z zs =>
        simp only [List.cons_append] at ih ⊢
        simp only [splitChecksum, ih]

/-- The split loses nothing: the bytes are the body and the two split off. -/
theorem splitChecksum_some : ∀ (bytes : List Byte) {body : List Byte} {l h : Byte},
    splitChecksum bytes = some (body, l, h) → bytes = body ++ [l, h]
  | [], _, _, _, hs => by cases hs
  | [_], _, _, _, hs => by cases hs
  | [_, _], _, _, _, hs => by simp only [splitChecksum] at hs; cases hs; rfl
  | x :: y :: z :: rest, _, _, _, hs => by
    simp only [splitChecksum] at hs
    cases e : splitChecksum (y :: z :: rest) with
    | none => rw [e] at hs; cases hs
    | some r =>
      obtain ⟨b, u, v⟩ := r
      rw [e] at hs
      cases hs
      rw [splitChecksum_some _ e]
      rfl

end Sys2Proof
end

