-- ==== Sys2Proof/Laws/State.lean ====
section
/-! SUPPORT. One lemma per field per update of State: what each named operation leaves alone, and what
it writes, so that no proof unfolds a record update. -/

namespace Sys2Proof.Machine

set_option Elab.async false

/-! ### done -/

@[simp] theorem State.done_st (s : State) (v : Word) (bs : List Byte) (f : Bool) : (s.done v bs f).st = .ok := rfl
@[simp] theorem State.done_w (s : State) (v : Word) (bs : List Byte) (f : Bool) : (s.done v bs f).w = f := rfl
@[simp] theorem State.done_r (s : State) (v : Word) (bs : List Byte) (f : Bool) : (s.done v bs f).r = v := rfl
@[simp] theorem State.done_rb (s : State) (v : Word) (bs : List Byte) (f : Bool) : (s.done v bs f).rb = bs := rfl
@[simp] theorem State.done_seq (s : State) (v : Word) (bs : List Byte) (f : Bool) : (s.done v bs f).seq = .idle := rfl
@[simp] theorem State.done_idx (s : State) (v : Word) (bs : List Byte) (f : Bool) : (s.done v bs f).idx = s.idx := rfl
@[simp] theorem State.done_pollcnt (s : State) (v : Word) (bs : List Byte) (f : Bool) : (s.done v bs f).pollcnt = s.pollcnt := rfl
@[simp] theorem State.done_explen (s : State) (v : Word) (bs : List Byte) (f : Bool) : (s.done v bs f).explen = s.explen := rfl
@[simp] theorem State.done_fb (s : State) (v : Word) (bs : List Byte) (f : Bool) : (s.done v bs f).fb = s.fb := rfl
@[simp] theorem State.done_fblen (s : State) (v : Word) (bs : List Byte) (f : Bool) : (s.done v bs f).fblen = s.fblen := rfl
@[simp] theorem State.done_fbk (s : State) (v : Word) (bs : List Byte) (f : Bool) : (s.done v bs f).fbk = s.fbk := rfl
@[simp] theorem State.done_pri (s : State) (v : Word) (bs : List Byte) (f : Bool) : (s.done v bs f).pri = s.pri := rfl
@[simp] theorem State.done_chk (s : State) (v : Word) (bs : List Byte) (f : Bool) : (s.done v bs f).chk = s.chk := rfl
@[simp] theorem State.done_alm (s : State) (v : Word) (bs : List Byte) (f : Bool) : (s.done v bs f).alm = s.alm := rfl
@[simp] theorem State.done_rtcw (s : State) (v : Word) (bs : List Byte) (f : Bool) : (s.done v bs f).rtcw = s.rtcw := rfl
@[simp] theorem State.done_half (s : State) (v : Word) (bs : List Byte) (f : Bool) : (s.done v bs f).half = s.half := rfl
@[simp] theorem State.done_alrmw (s : State) (v : Word) (bs : List Byte) (f : Bool) : (s.done v bs f).alrmw = s.alrmw := rfl
@[simp] theorem State.done_alcfg (s : State) (v : Word) (bs : List Byte) (f : Bool) : (s.done v bs f).alcfg = s.alcfg := rfl
@[simp] theorem State.done_wren (s : State) (v : Word) (bs : List Byte) (f : Bool) : (s.done v bs f).wren = s.wren := rfl
@[simp] theorem State.done_prot (s : State) (v : Word) (bs : List Byte) (f : Bool) : (s.done v bs f).prot = s.prot := rfl
@[simp] theorem State.done_keyst (s : State) (v : Word) (bs : List Byte) (f : Bool) : (s.done v bs f).keyst = s.keyst := rfl
@[simp] theorem State.done_almif (s : State) (v : Word) (bs : List Byte) (f : Bool) : (s.done v bs f).almif = s.almif := rfl
@[simp] theorem State.done_irqinh (s : State) (v : Word) (bs : List Byte) (f : Bool) : (s.done v bs f).irqinh = s.irqinh := rfl
@[simp] theorem State.done_params (s : State) (v : Word) (bs : List Byte) (f : Bool) : (s.done v bs f).params = s.params := rfl
@[simp] theorem State.done_freeCount (s : State) (v : Word) (bs : List Byte) (f : Bool) : (s.done v bs f).freeCount = s.freeCount := rfl
@[simp] theorem State.done_tx (s : State) (v : Word) (bs : List Byte) (f : Bool) : (s.done v bs f).tx = s.tx := rfl
@[simp] theorem State.done_rx (s : State) (v : Word) (bs : List Byte) (f : Bool) : (s.done v bs f).rx = s.rx := rfl
@[simp] theorem State.done_rxCount (s : State) (v : Word) (bs : List Byte) (f : Bool) : (s.done v bs f).rxCount = s.rxCount := rfl
@[simp] theorem State.done_portCmd (s : State) (v : Word) (bs : List Byte) (f : Bool) : (s.done v bs f).portCmd = s.portCmd := rfl
@[simp] theorem State.done_portPl (s : State) (v : Word) (bs : List Byte) (f : Bool) : (s.done v bs f).portPl = s.portPl := rfl
@[simp] theorem State.done_agenda (s : State) (v : Word) (bs : List Byte) (f : Bool) : (s.done v bs f).agenda = s.agenda := rfl

/-! ### raise -/

@[simp] theorem State.raise_st (s : State) (e : Status) : (s.raise e).st = e := rfl
@[simp] theorem State.raise_w (s : State) (e : Status) : (s.raise e).w = false := rfl
@[simp] theorem State.raise_r (s : State) (e : Status) : (s.raise e).r = 0#32 := rfl
@[simp] theorem State.raise_rb (s : State) (e : Status) : (s.raise e).rb = [] := rfl
@[simp] theorem State.raise_seq (s : State) (e : Status) : (s.raise e).seq = .idle := rfl
@[simp] theorem State.raise_idx (s : State) (e : Status) : (s.raise e).idx = s.idx := rfl
@[simp] theorem State.raise_pollcnt (s : State) (e : Status) : (s.raise e).pollcnt = s.pollcnt := rfl
@[simp] theorem State.raise_explen (s : State) (e : Status) : (s.raise e).explen = s.explen := rfl
@[simp] theorem State.raise_fb (s : State) (e : Status) : (s.raise e).fb = s.fb := rfl
@[simp] theorem State.raise_fblen (s : State) (e : Status) : (s.raise e).fblen = s.fblen := rfl
@[simp] theorem State.raise_fbk (s : State) (e : Status) : (s.raise e).fbk = s.fbk := rfl
@[simp] theorem State.raise_pri (s : State) (e : Status) : (s.raise e).pri = s.pri := rfl
@[simp] theorem State.raise_chk (s : State) (e : Status) : (s.raise e).chk = s.chk := rfl
@[simp] theorem State.raise_alm (s : State) (e : Status) : (s.raise e).alm = s.alm := rfl
@[simp] theorem State.raise_rtcw (s : State) (e : Status) : (s.raise e).rtcw = s.rtcw := rfl
@[simp] theorem State.raise_half (s : State) (e : Status) : (s.raise e).half = s.half := rfl
@[simp] theorem State.raise_alrmw (s : State) (e : Status) : (s.raise e).alrmw = s.alrmw := rfl
@[simp] theorem State.raise_alcfg (s : State) (e : Status) : (s.raise e).alcfg = s.alcfg := rfl
@[simp] theorem State.raise_wren (s : State) (e : Status) : (s.raise e).wren = s.wren := rfl
@[simp] theorem State.raise_prot (s : State) (e : Status) : (s.raise e).prot = s.prot := rfl
@[simp] theorem State.raise_keyst (s : State) (e : Status) : (s.raise e).keyst = s.keyst := rfl
@[simp] theorem State.raise_almif (s : State) (e : Status) : (s.raise e).almif = s.almif := rfl
@[simp] theorem State.raise_irqinh (s : State) (e : Status) : (s.raise e).irqinh = s.irqinh := rfl
@[simp] theorem State.raise_params (s : State) (e : Status) : (s.raise e).params = s.params := rfl
@[simp] theorem State.raise_freeCount (s : State) (e : Status) : (s.raise e).freeCount = s.freeCount := rfl
@[simp] theorem State.raise_tx (s : State) (e : Status) : (s.raise e).tx = s.tx := rfl
@[simp] theorem State.raise_rx (s : State) (e : Status) : (s.raise e).rx = s.rx := rfl
@[simp] theorem State.raise_rxCount (s : State) (e : Status) : (s.raise e).rxCount = s.rxCount := rfl
@[simp] theorem State.raise_portCmd (s : State) (e : Status) : (s.raise e).portCmd = s.portCmd := rfl
@[simp] theorem State.raise_portPl (s : State) (e : Status) : (s.raise e).portPl = s.portPl := rfl
@[simp] theorem State.raise_agenda (s : State) (e : Status) : (s.raise e).agenda = s.agenda := rfl

/-! ### accept -/

@[simp] theorem State.accept_st (s : State) : (s.accept).st = s.st := rfl
@[simp] theorem State.accept_w (s : State) : (s.accept).w = s.w := rfl
@[simp] theorem State.accept_r (s : State) : (s.accept).r = s.r := rfl
@[simp] theorem State.accept_rb (s : State) : (s.accept).rb = s.rb := rfl
@[simp] theorem State.accept_seq (s : State) : (s.accept).seq = .busy s.portCmd s.portPl 1 := rfl
@[simp] theorem State.accept_idx (s : State) : (s.accept).idx = s.idx := rfl
@[simp] theorem State.accept_pollcnt (s : State) : (s.accept).pollcnt = s.pollcnt := rfl
@[simp] theorem State.accept_explen (s : State) : (s.accept).explen = s.explen := rfl
@[simp] theorem State.accept_fb (s : State) : (s.accept).fb = s.fb := rfl
@[simp] theorem State.accept_fblen (s : State) : (s.accept).fblen = s.fblen := rfl
@[simp] theorem State.accept_fbk (s : State) : (s.accept).fbk = s.fbk := rfl
@[simp] theorem State.accept_pri (s : State) : (s.accept).pri = s.pri := rfl
@[simp] theorem State.accept_chk (s : State) : (s.accept).chk = s.chk := rfl
@[simp] theorem State.accept_alm (s : State) : (s.accept).alm = s.alm := rfl
@[simp] theorem State.accept_rtcw (s : State) : (s.accept).rtcw = s.rtcw := rfl
@[simp] theorem State.accept_half (s : State) : (s.accept).half = s.half := rfl
@[simp] theorem State.accept_alrmw (s : State) : (s.accept).alrmw = s.alrmw := rfl
@[simp] theorem State.accept_alcfg (s : State) : (s.accept).alcfg = s.alcfg := rfl
@[simp] theorem State.accept_wren (s : State) : (s.accept).wren = s.wren := rfl
@[simp] theorem State.accept_prot (s : State) : (s.accept).prot = s.prot := rfl
@[simp] theorem State.accept_keyst (s : State) : (s.accept).keyst = s.keyst := rfl
@[simp] theorem State.accept_almif (s : State) : (s.accept).almif = s.almif := rfl
@[simp] theorem State.accept_irqinh (s : State) : (s.accept).irqinh = s.irqinh := rfl
@[simp] theorem State.accept_params (s : State) : (s.accept).params = s.params := rfl
@[simp] theorem State.accept_freeCount (s : State) : (s.accept).freeCount = s.freeCount := rfl
@[simp] theorem State.accept_tx (s : State) : (s.accept).tx = s.tx := rfl
@[simp] theorem State.accept_rx (s : State) : (s.accept).rx = s.rx := rfl
@[simp] theorem State.accept_rxCount (s : State) : (s.accept).rxCount = s.rxCount := rfl
@[simp] theorem State.accept_portCmd (s : State) : (s.accept).portCmd = s.portCmd := rfl
@[simp] theorem State.accept_portPl (s : State) : (s.accept).portPl = s.portPl := rfl
@[simp] theorem State.accept_agenda (s : State) : (s.accept).agenda = s.agenda := rfl

/-! ### goto -/

@[simp] theorem State.goto_st (s : State) (k : Nat) : (s.goto k).st = s.st := by unfold State.goto; split <;> rfl
@[simp] theorem State.goto_w (s : State) (k : Nat) : (s.goto k).w = s.w := by unfold State.goto; split <;> rfl
@[simp] theorem State.goto_r (s : State) (k : Nat) : (s.goto k).r = s.r := by unfold State.goto; split <;> rfl
@[simp] theorem State.goto_rb (s : State) (k : Nat) : (s.goto k).rb = s.rb := by unfold State.goto; split <;> rfl
@[simp] theorem State.goto_idx (s : State) (k : Nat) : (s.goto k).idx = s.idx := by unfold State.goto; split <;> rfl
@[simp] theorem State.goto_pollcnt (s : State) (k : Nat) : (s.goto k).pollcnt = s.pollcnt := by unfold State.goto; split <;> rfl
@[simp] theorem State.goto_explen (s : State) (k : Nat) : (s.goto k).explen = s.explen := by unfold State.goto; split <;> rfl
@[simp] theorem State.goto_fb (s : State) (k : Nat) : (s.goto k).fb = s.fb := by unfold State.goto; split <;> rfl
@[simp] theorem State.goto_fblen (s : State) (k : Nat) : (s.goto k).fblen = s.fblen := by unfold State.goto; split <;> rfl
@[simp] theorem State.goto_fbk (s : State) (k : Nat) : (s.goto k).fbk = s.fbk := by unfold State.goto; split <;> rfl
@[simp] theorem State.goto_pri (s : State) (k : Nat) : (s.goto k).pri = s.pri := by unfold State.goto; split <;> rfl
@[simp] theorem State.goto_chk (s : State) (k : Nat) : (s.goto k).chk = s.chk := by unfold State.goto; split <;> rfl
@[simp] theorem State.goto_alm (s : State) (k : Nat) : (s.goto k).alm = s.alm := by unfold State.goto; split <;> rfl
@[simp] theorem State.goto_rtcw (s : State) (k : Nat) : (s.goto k).rtcw = s.rtcw := by unfold State.goto; split <;> rfl
@[simp] theorem State.goto_half (s : State) (k : Nat) : (s.goto k).half = s.half := by unfold State.goto; split <;> rfl
@[simp] theorem State.goto_alrmw (s : State) (k : Nat) : (s.goto k).alrmw = s.alrmw := by unfold State.goto; split <;> rfl
@[simp] theorem State.goto_alcfg (s : State) (k : Nat) : (s.goto k).alcfg = s.alcfg := by unfold State.goto; split <;> rfl
@[simp] theorem State.goto_wren (s : State) (k : Nat) : (s.goto k).wren = s.wren := by unfold State.goto; split <;> rfl
@[simp] theorem State.goto_prot (s : State) (k : Nat) : (s.goto k).prot = s.prot := by unfold State.goto; split <;> rfl
@[simp] theorem State.goto_keyst (s : State) (k : Nat) : (s.goto k).keyst = s.keyst := by unfold State.goto; split <;> rfl
@[simp] theorem State.goto_almif (s : State) (k : Nat) : (s.goto k).almif = s.almif := by unfold State.goto; split <;> rfl
@[simp] theorem State.goto_irqinh (s : State) (k : Nat) : (s.goto k).irqinh = s.irqinh := by unfold State.goto; split <;> rfl
@[simp] theorem State.goto_params (s : State) (k : Nat) : (s.goto k).params = s.params := by unfold State.goto; split <;> rfl
@[simp] theorem State.goto_freeCount (s : State) (k : Nat) : (s.goto k).freeCount = s.freeCount := by unfold State.goto; split <;> rfl
@[simp] theorem State.goto_tx (s : State) (k : Nat) : (s.goto k).tx = s.tx := by unfold State.goto; split <;> rfl
@[simp] theorem State.goto_rx (s : State) (k : Nat) : (s.goto k).rx = s.rx := by unfold State.goto; split <;> rfl
@[simp] theorem State.goto_rxCount (s : State) (k : Nat) : (s.goto k).rxCount = s.rxCount := by unfold State.goto; split <;> rfl
@[simp] theorem State.goto_portCmd (s : State) (k : Nat) : (s.goto k).portCmd = s.portCmd := by unfold State.goto; split <;> rfl
@[simp] theorem State.goto_portPl (s : State) (k : Nat) : (s.goto k).portPl = s.portPl := by unfold State.goto; split <;> rfl
@[simp] theorem State.goto_agenda (s : State) (k : Nat) : (s.goto k).agenda = s.agenda := by unfold State.goto; split <;> rfl

/-! ### txByte -/

@[simp] theorem State.txByte_st (s : State) (b : Byte) : (s.txByte b).st = s.st := rfl
@[simp] theorem State.txByte_w (s : State) (b : Byte) : (s.txByte b).w = s.w := rfl
@[simp] theorem State.txByte_r (s : State) (b : Byte) : (s.txByte b).r = s.r := rfl
@[simp] theorem State.txByte_rb (s : State) (b : Byte) : (s.txByte b).rb = s.rb := rfl
@[simp] theorem State.txByte_seq (s : State) (b : Byte) : (s.txByte b).seq = s.seq := rfl
@[simp] theorem State.txByte_idx (s : State) (b : Byte) : (s.txByte b).idx = s.idx := rfl
@[simp] theorem State.txByte_pollcnt (s : State) (b : Byte) : (s.txByte b).pollcnt = s.pollcnt := rfl
@[simp] theorem State.txByte_explen (s : State) (b : Byte) : (s.txByte b).explen = s.explen := rfl
@[simp] theorem State.txByte_fb (s : State) (b : Byte) : (s.txByte b).fb = s.fb := rfl
@[simp] theorem State.txByte_fblen (s : State) (b : Byte) : (s.txByte b).fblen = s.fblen := rfl
@[simp] theorem State.txByte_fbk (s : State) (b : Byte) : (s.txByte b).fbk = s.fbk := rfl
@[simp] theorem State.txByte_pri (s : State) (b : Byte) : (s.txByte b).pri = s.pri := rfl
@[simp] theorem State.txByte_chk (s : State) (b : Byte) : (s.txByte b).chk = s.chk := rfl
@[simp] theorem State.txByte_alm (s : State) (b : Byte) : (s.txByte b).alm = s.alm := rfl
@[simp] theorem State.txByte_rtcw (s : State) (b : Byte) : (s.txByte b).rtcw = s.rtcw := rfl
@[simp] theorem State.txByte_half (s : State) (b : Byte) : (s.txByte b).half = s.half := rfl
@[simp] theorem State.txByte_alrmw (s : State) (b : Byte) : (s.txByte b).alrmw = s.alrmw := rfl
@[simp] theorem State.txByte_alcfg (s : State) (b : Byte) : (s.txByte b).alcfg = s.alcfg := rfl
@[simp] theorem State.txByte_wren (s : State) (b : Byte) : (s.txByte b).wren = s.wren := rfl
@[simp] theorem State.txByte_prot (s : State) (b : Byte) : (s.txByte b).prot = s.prot := rfl
@[simp] theorem State.txByte_keyst (s : State) (b : Byte) : (s.txByte b).keyst = s.keyst := rfl
@[simp] theorem State.txByte_almif (s : State) (b : Byte) : (s.txByte b).almif = s.almif := rfl
@[simp] theorem State.txByte_irqinh (s : State) (b : Byte) : (s.txByte b).irqinh = s.irqinh := rfl
@[simp] theorem State.txByte_params (s : State) (b : Byte) : (s.txByte b).params = s.params := rfl
@[simp] theorem State.txByte_freeCount (s : State) (b : Byte) : (s.txByte b).freeCount = s.freeCount := rfl
@[simp] theorem State.txByte_tx (s : State) (b : Byte) : (s.txByte b).tx = s.tx ++ [b] := rfl
@[simp] theorem State.txByte_rx (s : State) (b : Byte) : (s.txByte b).rx = s.rx := rfl
@[simp] theorem State.txByte_rxCount (s : State) (b : Byte) : (s.txByte b).rxCount = s.rxCount := rfl
@[simp] theorem State.txByte_portCmd (s : State) (b : Byte) : (s.txByte b).portCmd = s.portCmd := rfl
@[simp] theorem State.txByte_portPl (s : State) (b : Byte) : (s.txByte b).portPl = s.portPl := rfl
@[simp] theorem State.txByte_agenda (s : State) (b : Byte) : (s.txByte b).agenda = s.agenda := rfl

/-! ### rxAdvance -/

@[simp] theorem State.rxAdvance_st (s : State) : (s.rxAdvance).st = s.st := rfl
@[simp] theorem State.rxAdvance_w (s : State) : (s.rxAdvance).w = s.w := rfl
@[simp] theorem State.rxAdvance_r (s : State) : (s.rxAdvance).r = s.r := rfl
@[simp] theorem State.rxAdvance_rb (s : State) : (s.rxAdvance).rb = s.rb := rfl
@[simp] theorem State.rxAdvance_seq (s : State) : (s.rxAdvance).seq = s.seq := rfl
@[simp] theorem State.rxAdvance_idx (s : State) : (s.rxAdvance).idx = s.idx := rfl
@[simp] theorem State.rxAdvance_pollcnt (s : State) : (s.rxAdvance).pollcnt = s.pollcnt := rfl
@[simp] theorem State.rxAdvance_explen (s : State) : (s.rxAdvance).explen = s.explen := rfl
@[simp] theorem State.rxAdvance_fb (s : State) : (s.rxAdvance).fb = s.fb := rfl
@[simp] theorem State.rxAdvance_fblen (s : State) : (s.rxAdvance).fblen = s.fblen := rfl
@[simp] theorem State.rxAdvance_fbk (s : State) : (s.rxAdvance).fbk = s.fbk := rfl
@[simp] theorem State.rxAdvance_pri (s : State) : (s.rxAdvance).pri = s.pri := rfl
@[simp] theorem State.rxAdvance_chk (s : State) : (s.rxAdvance).chk = s.chk := rfl
@[simp] theorem State.rxAdvance_alm (s : State) : (s.rxAdvance).alm = s.alm := rfl
@[simp] theorem State.rxAdvance_rtcw (s : State) : (s.rxAdvance).rtcw = s.rtcw := rfl
@[simp] theorem State.rxAdvance_half (s : State) : (s.rxAdvance).half = s.half := rfl
@[simp] theorem State.rxAdvance_alrmw (s : State) : (s.rxAdvance).alrmw = s.alrmw := rfl
@[simp] theorem State.rxAdvance_alcfg (s : State) : (s.rxAdvance).alcfg = s.alcfg := rfl
@[simp] theorem State.rxAdvance_wren (s : State) : (s.rxAdvance).wren = s.wren := rfl
@[simp] theorem State.rxAdvance_prot (s : State) : (s.rxAdvance).prot = s.prot := rfl
@[simp] theorem State.rxAdvance_keyst (s : State) : (s.rxAdvance).keyst = s.keyst := rfl
@[simp] theorem State.rxAdvance_almif (s : State) : (s.rxAdvance).almif = s.almif := rfl
@[simp] theorem State.rxAdvance_irqinh (s : State) : (s.rxAdvance).irqinh = s.irqinh := rfl
@[simp] theorem State.rxAdvance_params (s : State) : (s.rxAdvance).params = s.params := rfl
@[simp] theorem State.rxAdvance_freeCount (s : State) : (s.rxAdvance).freeCount = s.freeCount := rfl
@[simp] theorem State.rxAdvance_tx (s : State) : (s.rxAdvance).tx = s.tx := rfl
@[simp] theorem State.rxAdvance_rx (s : State) : (s.rxAdvance).rx = s.rx.tail := rfl
@[simp] theorem State.rxAdvance_rxCount (s : State) : (s.rxAdvance).rxCount = s.rxCount + 1 := rfl
@[simp] theorem State.rxAdvance_portCmd (s : State) : (s.rxAdvance).portCmd = s.portCmd := rfl
@[simp] theorem State.rxAdvance_portPl (s : State) : (s.rxAdvance).portPl = s.portPl := rfl
@[simp] theorem State.rxAdvance_agenda (s : State) : (s.rxAdvance).agenda = s.agenda := rfl

/-! ### writeProt -/

@[simp] theorem State.writeProt_st (s : State) (v : Byte) : (s.writeProt v).st = s.st := rfl
@[simp] theorem State.writeProt_w (s : State) (v : Byte) : (s.writeProt v).w = s.w := rfl
@[simp] theorem State.writeProt_r (s : State) (v : Byte) : (s.writeProt v).r = s.r := rfl
@[simp] theorem State.writeProt_rb (s : State) (v : Byte) : (s.writeProt v).rb = s.rb := rfl
@[simp] theorem State.writeProt_seq (s : State) (v : Byte) : (s.writeProt v).seq = s.seq := rfl
@[simp] theorem State.writeProt_idx (s : State) (v : Byte) : (s.writeProt v).idx = s.idx := rfl
@[simp] theorem State.writeProt_pollcnt (s : State) (v : Byte) : (s.writeProt v).pollcnt = s.pollcnt := rfl
@[simp] theorem State.writeProt_explen (s : State) (v : Byte) : (s.writeProt v).explen = s.explen := rfl
@[simp] theorem State.writeProt_fb (s : State) (v : Byte) : (s.writeProt v).fb = s.fb := rfl
@[simp] theorem State.writeProt_fblen (s : State) (v : Byte) : (s.writeProt v).fblen = s.fblen := rfl
@[simp] theorem State.writeProt_fbk (s : State) (v : Byte) : (s.writeProt v).fbk = s.fbk := rfl
@[simp] theorem State.writeProt_pri (s : State) (v : Byte) : (s.writeProt v).pri = s.pri := rfl
@[simp] theorem State.writeProt_chk (s : State) (v : Byte) : (s.writeProt v).chk = s.chk := rfl
@[simp] theorem State.writeProt_alm (s : State) (v : Byte) : (s.writeProt v).alm = s.alm := rfl
@[simp] theorem State.writeProt_rtcw (s : State) (v : Byte) : (s.writeProt v).rtcw = s.rtcw := rfl
@[simp] theorem State.writeProt_half (s : State) (v : Byte) : (s.writeProt v).half = s.half := rfl
@[simp] theorem State.writeProt_alrmw (s : State) (v : Byte) : (s.writeProt v).alrmw = s.alrmw := rfl
@[simp] theorem State.writeProt_alcfg (s : State) (v : Byte) : (s.writeProt v).alcfg = s.alcfg := rfl
@[simp] theorem State.writeProt_wren (s : State) (v : Byte) : (s.writeProt v).wren = s.wren := rfl
@[simp] theorem State.writeProt_prot (s : State) (v : Byte) : (s.writeProt v).prot = v := rfl
@[simp] theorem State.writeProt_almif (s : State) (v : Byte) : (s.writeProt v).almif = s.almif := rfl
@[simp] theorem State.writeProt_irqinh (s : State) (v : Byte) : (s.writeProt v).irqinh = s.irqinh := rfl
@[simp] theorem State.writeProt_params (s : State) (v : Byte) : (s.writeProt v).params = s.params := rfl
@[simp] theorem State.writeProt_freeCount (s : State) (v : Byte) : (s.writeProt v).freeCount = s.freeCount := rfl
@[simp] theorem State.writeProt_tx (s : State) (v : Byte) : (s.writeProt v).tx = s.tx := rfl
@[simp] theorem State.writeProt_rx (s : State) (v : Byte) : (s.writeProt v).rx = s.rx := rfl
@[simp] theorem State.writeProt_rxCount (s : State) (v : Byte) : (s.writeProt v).rxCount = s.rxCount := rfl
@[simp] theorem State.writeProt_portCmd (s : State) (v : Byte) : (s.writeProt v).portCmd = s.portCmd := rfl
@[simp] theorem State.writeProt_portPl (s : State) (v : Byte) : (s.writeProt v).portPl = s.portPl := rfl
@[simp] theorem State.writeProt_agenda (s : State) (v : Byte) : (s.writeProt v).agenda = s.agenda := rfl

/-! ### setWren -/

@[simp] theorem State.setWren_st (s : State) : (s.setWren).st = s.st := rfl
@[simp] theorem State.setWren_w (s : State) : (s.setWren).w = s.w := rfl
@[simp] theorem State.setWren_r (s : State) : (s.setWren).r = s.r := rfl
@[simp] theorem State.setWren_rb (s : State) : (s.setWren).rb = s.rb := rfl
@[simp] theorem State.setWren_seq (s : State) : (s.setWren).seq = s.seq := rfl
@[simp] theorem State.setWren_idx (s : State) : (s.setWren).idx = s.idx := rfl
@[simp] theorem State.setWren_pollcnt (s : State) : (s.setWren).pollcnt = s.pollcnt := rfl
@[simp] theorem State.setWren_explen (s : State) : (s.setWren).explen = s.explen := rfl
@[simp] theorem State.setWren_fb (s : State) : (s.setWren).fb = s.fb := rfl
@[simp] theorem State.setWren_fblen (s : State) : (s.setWren).fblen = s.fblen := rfl
@[simp] theorem State.setWren_fbk (s : State) : (s.setWren).fbk = s.fbk := rfl
@[simp] theorem State.setWren_pri (s : State) : (s.setWren).pri = s.pri := rfl
@[simp] theorem State.setWren_chk (s : State) : (s.setWren).chk = s.chk := rfl
@[simp] theorem State.setWren_alm (s : State) : (s.setWren).alm = s.alm := rfl
@[simp] theorem State.setWren_rtcw (s : State) : (s.setWren).rtcw = s.rtcw := rfl
@[simp] theorem State.setWren_half (s : State) : (s.setWren).half = s.half := rfl
@[simp] theorem State.setWren_alrmw (s : State) : (s.setWren).alrmw = s.alrmw := rfl
@[simp] theorem State.setWren_alcfg (s : State) : (s.setWren).alcfg = s.alcfg := rfl
@[simp] theorem State.setWren_wren (s : State) : (s.setWren).wren = (s.wren || s.keyst == 2#2) := rfl
@[simp] theorem State.setWren_prot (s : State) : (s.setWren).prot = s.prot := rfl
@[simp] theorem State.setWren_keyst (s : State) : (s.setWren).keyst = 0#2 := rfl
@[simp] theorem State.setWren_almif (s : State) : (s.setWren).almif = s.almif := rfl
@[simp] theorem State.setWren_irqinh (s : State) : (s.setWren).irqinh = s.irqinh := rfl
@[simp] theorem State.setWren_params (s : State) : (s.setWren).params = s.params := rfl
@[simp] theorem State.setWren_freeCount (s : State) : (s.setWren).freeCount = s.freeCount := rfl
@[simp] theorem State.setWren_tx (s : State) : (s.setWren).tx = s.tx := rfl
@[simp] theorem State.setWren_rx (s : State) : (s.setWren).rx = s.rx := rfl
@[simp] theorem State.setWren_rxCount (s : State) : (s.setWren).rxCount = s.rxCount := rfl
@[simp] theorem State.setWren_portCmd (s : State) : (s.setWren).portCmd = s.portCmd := rfl
@[simp] theorem State.setWren_portPl (s : State) : (s.setWren).portPl = s.portPl := rfl
@[simp] theorem State.setWren_agenda (s : State) : (s.setWren).agenda = s.agenda := rfl

/-! ### writeRtcw -/

@[simp] theorem State.writeRtcw_st (s : State) (i : Fin 4) (v : Half) : (s.writeRtcw i v).st = s.st := by unfold State.writeRtcw; split <;> rfl
@[simp] theorem State.writeRtcw_w (s : State) (i : Fin 4) (v : Half) : (s.writeRtcw i v).w = s.w := by unfold State.writeRtcw; split <;> rfl
@[simp] theorem State.writeRtcw_r (s : State) (i : Fin 4) (v : Half) : (s.writeRtcw i v).r = s.r := by unfold State.writeRtcw; split <;> rfl
@[simp] theorem State.writeRtcw_rb (s : State) (i : Fin 4) (v : Half) : (s.writeRtcw i v).rb = s.rb := by unfold State.writeRtcw; split <;> rfl
@[simp] theorem State.writeRtcw_seq (s : State) (i : Fin 4) (v : Half) : (s.writeRtcw i v).seq = s.seq := by unfold State.writeRtcw; split <;> rfl
@[simp] theorem State.writeRtcw_idx (s : State) (i : Fin 4) (v : Half) : (s.writeRtcw i v).idx = s.idx := by unfold State.writeRtcw; split <;> rfl
@[simp] theorem State.writeRtcw_pollcnt (s : State) (i : Fin 4) (v : Half) : (s.writeRtcw i v).pollcnt = s.pollcnt := by unfold State.writeRtcw; split <;> rfl
@[simp] theorem State.writeRtcw_explen (s : State) (i : Fin 4) (v : Half) : (s.writeRtcw i v).explen = s.explen := by unfold State.writeRtcw; split <;> rfl
@[simp] theorem State.writeRtcw_fb (s : State) (i : Fin 4) (v : Half) : (s.writeRtcw i v).fb = s.fb := by unfold State.writeRtcw; split <;> rfl
@[simp] theorem State.writeRtcw_fblen (s : State) (i : Fin 4) (v : Half) : (s.writeRtcw i v).fblen = s.fblen := by unfold State.writeRtcw; split <;> rfl
@[simp] theorem State.writeRtcw_fbk (s : State) (i : Fin 4) (v : Half) : (s.writeRtcw i v).fbk = s.fbk := by unfold State.writeRtcw; split <;> rfl
@[simp] theorem State.writeRtcw_pri (s : State) (i : Fin 4) (v : Half) : (s.writeRtcw i v).pri = s.pri := by unfold State.writeRtcw; split <;> rfl
@[simp] theorem State.writeRtcw_chk (s : State) (i : Fin 4) (v : Half) : (s.writeRtcw i v).chk = s.chk := by unfold State.writeRtcw; split <;> rfl
@[simp] theorem State.writeRtcw_alm (s : State) (i : Fin 4) (v : Half) : (s.writeRtcw i v).alm = s.alm := by unfold State.writeRtcw; split <;> rfl
@[simp] theorem State.writeRtcw_rtcw (s : State) (i : Fin 4) (v : Half) : (s.writeRtcw i v).rtcw = (if s.wren then writeWord s.rtcw i v else s.rtcw) := by unfold State.writeRtcw; split <;> rfl
@[simp] theorem State.writeRtcw_half (s : State) (i : Fin 4) (v : Half) : (s.writeRtcw i v).half = s.half := by unfold State.writeRtcw; split <;> rfl
@[simp] theorem State.writeRtcw_alrmw (s : State) (i : Fin 4) (v : Half) : (s.writeRtcw i v).alrmw = s.alrmw := by unfold State.writeRtcw; split <;> rfl
@[simp] theorem State.writeRtcw_alcfg (s : State) (i : Fin 4) (v : Half) : (s.writeRtcw i v).alcfg = s.alcfg := by unfold State.writeRtcw; split <;> rfl
@[simp] theorem State.writeRtcw_wren (s : State) (i : Fin 4) (v : Half) : (s.writeRtcw i v).wren = s.wren := by unfold State.writeRtcw; split <;> rfl
@[simp] theorem State.writeRtcw_prot (s : State) (i : Fin 4) (v : Half) : (s.writeRtcw i v).prot = s.prot := by unfold State.writeRtcw; split <;> rfl
@[simp] theorem State.writeRtcw_keyst (s : State) (i : Fin 4) (v : Half) : (s.writeRtcw i v).keyst = s.keyst := by unfold State.writeRtcw; split <;> rfl
@[simp] theorem State.writeRtcw_almif (s : State) (i : Fin 4) (v : Half) : (s.writeRtcw i v).almif = s.almif := by unfold State.writeRtcw; split <;> rfl
@[simp] theorem State.writeRtcw_irqinh (s : State) (i : Fin 4) (v : Half) : (s.writeRtcw i v).irqinh = s.irqinh := by unfold State.writeRtcw; split <;> rfl
@[simp] theorem State.writeRtcw_params (s : State) (i : Fin 4) (v : Half) : (s.writeRtcw i v).params = s.params := by unfold State.writeRtcw; split <;> rfl
@[simp] theorem State.writeRtcw_freeCount (s : State) (i : Fin 4) (v : Half) : (s.writeRtcw i v).freeCount = s.freeCount := by unfold State.writeRtcw; split <;> rfl
@[simp] theorem State.writeRtcw_tx (s : State) (i : Fin 4) (v : Half) : (s.writeRtcw i v).tx = s.tx := by unfold State.writeRtcw; split <;> rfl
@[simp] theorem State.writeRtcw_rx (s : State) (i : Fin 4) (v : Half) : (s.writeRtcw i v).rx = s.rx := by unfold State.writeRtcw; split <;> rfl
@[simp] theorem State.writeRtcw_rxCount (s : State) (i : Fin 4) (v : Half) : (s.writeRtcw i v).rxCount = s.rxCount := by unfold State.writeRtcw; split <;> rfl
@[simp] theorem State.writeRtcw_portCmd (s : State) (i : Fin 4) (v : Half) : (s.writeRtcw i v).portCmd = s.portCmd := by unfold State.writeRtcw; split <;> rfl
@[simp] theorem State.writeRtcw_portPl (s : State) (i : Fin 4) (v : Half) : (s.writeRtcw i v).portPl = s.portPl := by unfold State.writeRtcw; split <;> rfl
@[simp] theorem State.writeRtcw_agenda (s : State) (i : Fin 4) (v : Half) : (s.writeRtcw i v).agenda = s.agenda := by unfold State.writeRtcw; split <;> rfl

/-! ### writeAlrmw -/

@[simp] theorem State.writeAlrmw_st (s : State) (i : Fin 4) (v : Half) : (s.writeAlrmw i v).st = s.st := rfl
@[simp] theorem State.writeAlrmw_w (s : State) (i : Fin 4) (v : Half) : (s.writeAlrmw i v).w = s.w := rfl
@[simp] theorem State.writeAlrmw_r (s : State) (i : Fin 4) (v : Half) : (s.writeAlrmw i v).r = s.r := rfl
@[simp] theorem State.writeAlrmw_rb (s : State) (i : Fin 4) (v : Half) : (s.writeAlrmw i v).rb = s.rb := rfl
@[simp] theorem State.writeAlrmw_seq (s : State) (i : Fin 4) (v : Half) : (s.writeAlrmw i v).seq = s.seq := rfl
@[simp] theorem State.writeAlrmw_idx (s : State) (i : Fin 4) (v : Half) : (s.writeAlrmw i v).idx = s.idx := rfl
@[simp] theorem State.writeAlrmw_pollcnt (s : State) (i : Fin 4) (v : Half) : (s.writeAlrmw i v).pollcnt = s.pollcnt := rfl
@[simp] theorem State.writeAlrmw_explen (s : State) (i : Fin 4) (v : Half) : (s.writeAlrmw i v).explen = s.explen := rfl
@[simp] theorem State.writeAlrmw_fb (s : State) (i : Fin 4) (v : Half) : (s.writeAlrmw i v).fb = s.fb := rfl
@[simp] theorem State.writeAlrmw_fblen (s : State) (i : Fin 4) (v : Half) : (s.writeAlrmw i v).fblen = s.fblen := rfl
@[simp] theorem State.writeAlrmw_fbk (s : State) (i : Fin 4) (v : Half) : (s.writeAlrmw i v).fbk = s.fbk := rfl
@[simp] theorem State.writeAlrmw_pri (s : State) (i : Fin 4) (v : Half) : (s.writeAlrmw i v).pri = s.pri := rfl
@[simp] theorem State.writeAlrmw_chk (s : State) (i : Fin 4) (v : Half) : (s.writeAlrmw i v).chk = s.chk := rfl
@[simp] theorem State.writeAlrmw_alm (s : State) (i : Fin 4) (v : Half) : (s.writeAlrmw i v).alm = s.alm := rfl
@[simp] theorem State.writeAlrmw_rtcw (s : State) (i : Fin 4) (v : Half) : (s.writeAlrmw i v).rtcw = s.rtcw := rfl
@[simp] theorem State.writeAlrmw_half (s : State) (i : Fin 4) (v : Half) : (s.writeAlrmw i v).half = s.half := rfl
@[simp] theorem State.writeAlrmw_alrmw (s : State) (i : Fin 4) (v : Half) : (s.writeAlrmw i v).alrmw = writeWord s.alrmw i v := rfl
@[simp] theorem State.writeAlrmw_alcfg (s : State) (i : Fin 4) (v : Half) : (s.writeAlrmw i v).alcfg = s.alcfg := rfl
@[simp] theorem State.writeAlrmw_wren (s : State) (i : Fin 4) (v : Half) : (s.writeAlrmw i v).wren = s.wren := rfl
@[simp] theorem State.writeAlrmw_prot (s : State) (i : Fin 4) (v : Half) : (s.writeAlrmw i v).prot = s.prot := rfl
@[simp] theorem State.writeAlrmw_keyst (s : State) (i : Fin 4) (v : Half) : (s.writeAlrmw i v).keyst = s.keyst := rfl
@[simp] theorem State.writeAlrmw_almif (s : State) (i : Fin 4) (v : Half) : (s.writeAlrmw i v).almif = s.almif := rfl
@[simp] theorem State.writeAlrmw_irqinh (s : State) (i : Fin 4) (v : Half) : (s.writeAlrmw i v).irqinh = s.irqinh := rfl
@[simp] theorem State.writeAlrmw_params (s : State) (i : Fin 4) (v : Half) : (s.writeAlrmw i v).params = s.params := rfl
@[simp] theorem State.writeAlrmw_freeCount (s : State) (i : Fin 4) (v : Half) : (s.writeAlrmw i v).freeCount = s.freeCount := rfl
@[simp] theorem State.writeAlrmw_tx (s : State) (i : Fin 4) (v : Half) : (s.writeAlrmw i v).tx = s.tx := rfl
@[simp] theorem State.writeAlrmw_rx (s : State) (i : Fin 4) (v : Half) : (s.writeAlrmw i v).rx = s.rx := rfl
@[simp] theorem State.writeAlrmw_rxCount (s : State) (i : Fin 4) (v : Half) : (s.writeAlrmw i v).rxCount = s.rxCount := rfl
@[simp] theorem State.writeAlrmw_portCmd (s : State) (i : Fin 4) (v : Half) : (s.writeAlrmw i v).portCmd = s.portCmd := rfl
@[simp] theorem State.writeAlrmw_portPl (s : State) (i : Fin 4) (v : Half) : (s.writeAlrmw i v).portPl = s.portPl := rfl
@[simp] theorem State.writeAlrmw_agenda (s : State) (i : Fin 4) (v : Half) : (s.writeAlrmw i v).agenda = s.agenda := rfl

/-! ### havocFb -/

@[simp] theorem State.havocFb_st (s : State) : (s.havocFb).st = s.st := rfl
@[simp] theorem State.havocFb_w (s : State) : (s.havocFb).w = s.w := rfl
@[simp] theorem State.havocFb_r (s : State) : (s.havocFb).r = s.r := rfl
@[simp] theorem State.havocFb_rb (s : State) : (s.havocFb).rb = s.rb := rfl
@[simp] theorem State.havocFb_seq (s : State) : (s.havocFb).seq = s.seq := rfl
@[simp] theorem State.havocFb_idx (s : State) : (s.havocFb).idx = s.idx := rfl
@[simp] theorem State.havocFb_pollcnt (s : State) : (s.havocFb).pollcnt = s.pollcnt := rfl
@[simp] theorem State.havocFb_explen (s : State) : (s.havocFb).explen = s.explen := rfl
@[simp] theorem State.havocFb_fb (s : State) : (s.havocFb).fb = [] := rfl
@[simp] theorem State.havocFb_fbk (s : State) : (s.havocFb).fbk = s.fbk := rfl
@[simp] theorem State.havocFb_pri (s : State) : (s.havocFb).pri = s.pri := rfl
@[simp] theorem State.havocFb_chk (s : State) : (s.havocFb).chk = s.chk := rfl
@[simp] theorem State.havocFb_alm (s : State) : (s.havocFb).alm = s.alm := rfl
@[simp] theorem State.havocFb_rtcw (s : State) : (s.havocFb).rtcw = s.rtcw := rfl
@[simp] theorem State.havocFb_half (s : State) : (s.havocFb).half = s.half := rfl
@[simp] theorem State.havocFb_alrmw (s : State) : (s.havocFb).alrmw = s.alrmw := rfl
@[simp] theorem State.havocFb_alcfg (s : State) : (s.havocFb).alcfg = s.alcfg := rfl
@[simp] theorem State.havocFb_wren (s : State) : (s.havocFb).wren = s.wren := rfl
@[simp] theorem State.havocFb_prot (s : State) : (s.havocFb).prot = s.prot := rfl
@[simp] theorem State.havocFb_keyst (s : State) : (s.havocFb).keyst = s.keyst := rfl
@[simp] theorem State.havocFb_almif (s : State) : (s.havocFb).almif = s.almif := rfl
@[simp] theorem State.havocFb_irqinh (s : State) : (s.havocFb).irqinh = s.irqinh := rfl
@[simp] theorem State.havocFb_params (s : State) : (s.havocFb).params = s.params := rfl
@[simp] theorem State.havocFb_freeCount (s : State) : (s.havocFb).freeCount = s.freeCount + 1 := rfl
@[simp] theorem State.havocFb_tx (s : State) : (s.havocFb).tx = s.tx := rfl
@[simp] theorem State.havocFb_rx (s : State) : (s.havocFb).rx = s.rx := rfl
@[simp] theorem State.havocFb_rxCount (s : State) : (s.havocFb).rxCount = s.rxCount := rfl
@[simp] theorem State.havocFb_portCmd (s : State) : (s.havocFb).portCmd = s.portCmd := rfl
@[simp] theorem State.havocFb_portPl (s : State) : (s.havocFb).portPl = s.portPl := rfl
@[simp] theorem State.havocFb_agenda (s : State) : (s.havocFb).agenda = s.agenda := rfl

/-! ### renewFree -/

@[simp] theorem State.renewFree_st (s : State) : (s.renewFree).st = s.st := rfl
@[simp] theorem State.renewFree_w (s : State) : (s.renewFree).w = s.w := rfl
@[simp] theorem State.renewFree_r (s : State) : (s.renewFree).r = s.r := rfl
@[simp] theorem State.renewFree_rb (s : State) : (s.renewFree).rb = s.rb := rfl
@[simp] theorem State.renewFree_seq (s : State) : (s.renewFree).seq = s.seq := rfl
@[simp] theorem State.renewFree_idx (s : State) : (s.renewFree).idx = s.idx := rfl
@[simp] theorem State.renewFree_pollcnt (s : State) : (s.renewFree).pollcnt = s.pollcnt := rfl
@[simp] theorem State.renewFree_explen (s : State) : (s.renewFree).explen = s.explen := rfl
@[simp] theorem State.renewFree_fb (s : State) : (s.renewFree).fb = s.fb := rfl
@[simp] theorem State.renewFree_fbk (s : State) : (s.renewFree).fbk = s.fbk := rfl
@[simp] theorem State.renewFree_pri (s : State) : (s.renewFree).pri = s.pri := rfl
@[simp] theorem State.renewFree_chk (s : State) : (s.renewFree).chk = s.chk := rfl
@[simp] theorem State.renewFree_alm (s : State) : (s.renewFree).alm = s.alm := rfl
@[simp] theorem State.renewFree_rtcw (s : State) : (s.renewFree).rtcw = s.rtcw := rfl
@[simp] theorem State.renewFree_half (s : State) : (s.renewFree).half = s.half := rfl
@[simp] theorem State.renewFree_alrmw (s : State) : (s.renewFree).alrmw = s.alrmw := rfl
@[simp] theorem State.renewFree_alcfg (s : State) : (s.renewFree).alcfg = s.alcfg := rfl
@[simp] theorem State.renewFree_wren (s : State) : (s.renewFree).wren = s.wren := rfl
@[simp] theorem State.renewFree_prot (s : State) : (s.renewFree).prot = s.prot := rfl
@[simp] theorem State.renewFree_keyst (s : State) : (s.renewFree).keyst = s.keyst := rfl
@[simp] theorem State.renewFree_almif (s : State) : (s.renewFree).almif = s.almif := rfl
@[simp] theorem State.renewFree_irqinh (s : State) : (s.renewFree).irqinh = s.irqinh := rfl
@[simp] theorem State.renewFree_params (s : State) : (s.renewFree).params = s.params := rfl
@[simp] theorem State.renewFree_tx (s : State) : (s.renewFree).tx = s.tx := rfl
@[simp] theorem State.renewFree_rx (s : State) : (s.renewFree).rx = s.rx := rfl
@[simp] theorem State.renewFree_rxCount (s : State) : (s.renewFree).rxCount = s.rxCount := rfl
@[simp] theorem State.renewFree_portCmd (s : State) : (s.renewFree).portCmd = s.portCmd := rfl
@[simp] theorem State.renewFree_portPl (s : State) : (s.renewFree).portPl = s.portPl := rfl
@[simp] theorem State.renewFree_agenda (s : State) : (s.renewFree).agenda = s.agenda := rfl

/-- With any tag but UNSPEC nothing is unspecified anew. -/
theorem State.renewFree_of_specified {s : State} (h : s.fbk ≠ .unspec) : s.renewFree = s := by
  unfold State.renewFree
  rw [if_neg h, if_neg h]

/-- Only the epoch and the length are anew, the length within `FB_SIZE`, whatever the tag. -/
theorem State.renewFree_cases (s : State) : ∃ n e, s.renewFree = { s with fblen := n, freeCount := e } ∧
    (s.fbk = .unspec → n ≤ s.params.fbSize ∧ e = s.freeCount + 1) ∧
    (s.fbk ≠ .unspec → n = s.fblen ∧ e = s.freeCount) :=
  ⟨_, _, rfl, fun h => by rw [if_pos h, if_pos h]; exact ⟨Nat.min_le_right _ _, rfl⟩,
    fun h => by rw [if_neg h, if_neg h]; exact ⟨rfl, rfl⟩⟩

theorem State.renewFree_freeCount (s : State) :
    s.renewFree.freeCount = if s.fbk = .unspec then s.freeCount + 1 else s.freeCount := rfl

theorem State.renewFree_fblen (s : State) : s.renewFree.fblen =
    if s.fbk = .unspec then min (Config.freeLen (s.freeCount + 1)) s.params.fbSize else s.fblen := rfl

/-! ### readPri -/

@[simp] theorem State.readPri_st (s : State) (f : Field) : (s.readPri f).st = s.st := rfl
@[simp] theorem State.readPri_w (s : State) (f : Field) : (s.readPri f).w = s.w := rfl
@[simp] theorem State.readPri_r (s : State) (f : Field) : (s.readPri f).r = s.r := rfl
@[simp] theorem State.readPri_rb (s : State) (f : Field) : (s.readPri f).rb = s.rb := rfl
@[simp] theorem State.readPri_seq (s : State) (f : Field) : (s.readPri f).seq = s.seq := rfl
@[simp] theorem State.readPri_idx (s : State) (f : Field) : (s.readPri f).idx = s.idx := rfl
@[simp] theorem State.readPri_pollcnt (s : State) (f : Field) : (s.readPri f).pollcnt = s.pollcnt := rfl
@[simp] theorem State.readPri_explen (s : State) (f : Field) : (s.readPri f).explen = s.explen := rfl
@[simp] theorem State.readPri_fb (s : State) (f : Field) : (s.readPri f).fb = s.fb := rfl
@[simp] theorem State.readPri_fblen (s : State) (f : Field) : (s.readPri f).fblen = s.fblen := rfl
@[simp] theorem State.readPri_fbk (s : State) (f : Field) : (s.readPri f).fbk = s.fbk := rfl
@[simp] theorem State.readPri_pri (s : State) (f : Field) : (s.readPri f).pri = snapSet s.pri f (wordsField s.rtcw f) := rfl
@[simp] theorem State.readPri_chk (s : State) (f : Field) : (s.readPri f).chk = s.chk := rfl
@[simp] theorem State.readPri_alm (s : State) (f : Field) : (s.readPri f).alm = s.alm := rfl
@[simp] theorem State.readPri_rtcw (s : State) (f : Field) : (s.readPri f).rtcw = s.rtcw := rfl
@[simp] theorem State.readPri_half (s : State) (f : Field) : (s.readPri f).half = s.half := rfl
@[simp] theorem State.readPri_alrmw (s : State) (f : Field) : (s.readPri f).alrmw = s.alrmw := rfl
@[simp] theorem State.readPri_alcfg (s : State) (f : Field) : (s.readPri f).alcfg = s.alcfg := rfl
@[simp] theorem State.readPri_wren (s : State) (f : Field) : (s.readPri f).wren = s.wren := rfl
@[simp] theorem State.readPri_prot (s : State) (f : Field) : (s.readPri f).prot = s.prot := rfl
@[simp] theorem State.readPri_keyst (s : State) (f : Field) : (s.readPri f).keyst = s.keyst := rfl
@[simp] theorem State.readPri_almif (s : State) (f : Field) : (s.readPri f).almif = s.almif := rfl
@[simp] theorem State.readPri_irqinh (s : State) (f : Field) : (s.readPri f).irqinh = s.irqinh := rfl
@[simp] theorem State.readPri_params (s : State) (f : Field) : (s.readPri f).params = s.params := rfl
@[simp] theorem State.readPri_freeCount (s : State) (f : Field) : (s.readPri f).freeCount = s.freeCount := rfl
@[simp] theorem State.readPri_tx (s : State) (f : Field) : (s.readPri f).tx = s.tx := rfl
@[simp] theorem State.readPri_rx (s : State) (f : Field) : (s.readPri f).rx = s.rx := rfl
@[simp] theorem State.readPri_rxCount (s : State) (f : Field) : (s.readPri f).rxCount = s.rxCount := rfl
@[simp] theorem State.readPri_portCmd (s : State) (f : Field) : (s.readPri f).portCmd = s.portCmd := rfl
@[simp] theorem State.readPri_portPl (s : State) (f : Field) : (s.readPri f).portPl = s.portPl := rfl
@[simp] theorem State.readPri_agenda (s : State) (f : Field) : (s.readPri f).agenda = s.agenda := rfl

/-! ### readChk -/

@[simp] theorem State.readChk_st (s : State) (f : Field) : (s.readChk f).st = s.st := rfl
@[simp] theorem State.readChk_w (s : State) (f : Field) : (s.readChk f).w = s.w := rfl
@[simp] theorem State.readChk_r (s : State) (f : Field) : (s.readChk f).r = s.r := rfl
@[simp] theorem State.readChk_rb (s : State) (f : Field) : (s.readChk f).rb = s.rb := rfl
@[simp] theorem State.readChk_seq (s : State) (f : Field) : (s.readChk f).seq = s.seq := rfl
@[simp] theorem State.readChk_idx (s : State) (f : Field) : (s.readChk f).idx = s.idx := rfl
@[simp] theorem State.readChk_pollcnt (s : State) (f : Field) : (s.readChk f).pollcnt = s.pollcnt := rfl
@[simp] theorem State.readChk_explen (s : State) (f : Field) : (s.readChk f).explen = s.explen := rfl
@[simp] theorem State.readChk_fb (s : State) (f : Field) : (s.readChk f).fb = s.fb := rfl
@[simp] theorem State.readChk_fblen (s : State) (f : Field) : (s.readChk f).fblen = s.fblen := rfl
@[simp] theorem State.readChk_fbk (s : State) (f : Field) : (s.readChk f).fbk = s.fbk := rfl
@[simp] theorem State.readChk_pri (s : State) (f : Field) : (s.readChk f).pri = s.pri := rfl
@[simp] theorem State.readChk_chk (s : State) (f : Field) : (s.readChk f).chk = snapSet s.chk f (wordsField s.rtcw f) := rfl
@[simp] theorem State.readChk_alm (s : State) (f : Field) : (s.readChk f).alm = s.alm := rfl
@[simp] theorem State.readChk_rtcw (s : State) (f : Field) : (s.readChk f).rtcw = s.rtcw := rfl
@[simp] theorem State.readChk_half (s : State) (f : Field) : (s.readChk f).half = s.half := rfl
@[simp] theorem State.readChk_alrmw (s : State) (f : Field) : (s.readChk f).alrmw = s.alrmw := rfl
@[simp] theorem State.readChk_alcfg (s : State) (f : Field) : (s.readChk f).alcfg = s.alcfg := rfl
@[simp] theorem State.readChk_wren (s : State) (f : Field) : (s.readChk f).wren = s.wren := rfl
@[simp] theorem State.readChk_prot (s : State) (f : Field) : (s.readChk f).prot = s.prot := rfl
@[simp] theorem State.readChk_keyst (s : State) (f : Field) : (s.readChk f).keyst = s.keyst := rfl
@[simp] theorem State.readChk_almif (s : State) (f : Field) : (s.readChk f).almif = s.almif := rfl
@[simp] theorem State.readChk_irqinh (s : State) (f : Field) : (s.readChk f).irqinh = s.irqinh := rfl
@[simp] theorem State.readChk_params (s : State) (f : Field) : (s.readChk f).params = s.params := rfl
@[simp] theorem State.readChk_freeCount (s : State) (f : Field) : (s.readChk f).freeCount = s.freeCount := rfl
@[simp] theorem State.readChk_tx (s : State) (f : Field) : (s.readChk f).tx = s.tx := rfl
@[simp] theorem State.readChk_rx (s : State) (f : Field) : (s.readChk f).rx = s.rx := rfl
@[simp] theorem State.readChk_rxCount (s : State) (f : Field) : (s.readChk f).rxCount = s.rxCount := rfl
@[simp] theorem State.readChk_portCmd (s : State) (f : Field) : (s.readChk f).portCmd = s.portCmd := rfl
@[simp] theorem State.readChk_portPl (s : State) (f : Field) : (s.readChk f).portPl = s.portPl := rfl
@[simp] theorem State.readChk_agenda (s : State) (f : Field) : (s.readChk f).agenda = s.agenda := rfl

/-! ### wireOut -/

@[simp] theorem State.wireOut_st (s : State) (bs : List Byte) : (s.wireOut bs).st = s.st := rfl
@[simp] theorem State.wireOut_w (s : State) (bs : List Byte) : (s.wireOut bs).w = s.w := rfl
@[simp] theorem State.wireOut_r (s : State) (bs : List Byte) : (s.wireOut bs).r = s.r := rfl
@[simp] theorem State.wireOut_rb (s : State) (bs : List Byte) : (s.wireOut bs).rb = s.rb := rfl
@[simp] theorem State.wireOut_seq (s : State) (bs : List Byte) : (s.wireOut bs).seq = s.seq := rfl
@[simp] theorem State.wireOut_idx (s : State) (bs : List Byte) : (s.wireOut bs).idx = s.idx := rfl
@[simp] theorem State.wireOut_pollcnt (s : State) (bs : List Byte) : (s.wireOut bs).pollcnt = s.pollcnt := rfl
@[simp] theorem State.wireOut_explen (s : State) (bs : List Byte) : (s.wireOut bs).explen = s.explen := rfl
@[simp] theorem State.wireOut_fb (s : State) (bs : List Byte) : (s.wireOut bs).fb = s.fb := rfl
@[simp] theorem State.wireOut_fblen (s : State) (bs : List Byte) : (s.wireOut bs).fblen = s.fblen := rfl
@[simp] theorem State.wireOut_fbk (s : State) (bs : List Byte) : (s.wireOut bs).fbk = s.fbk := rfl
@[simp] theorem State.wireOut_pri (s : State) (bs : List Byte) : (s.wireOut bs).pri = s.pri := rfl
@[simp] theorem State.wireOut_chk (s : State) (bs : List Byte) : (s.wireOut bs).chk = s.chk := rfl
@[simp] theorem State.wireOut_alm (s : State) (bs : List Byte) : (s.wireOut bs).alm = s.alm := rfl
@[simp] theorem State.wireOut_rtcw (s : State) (bs : List Byte) : (s.wireOut bs).rtcw = s.rtcw := rfl
@[simp] theorem State.wireOut_half (s : State) (bs : List Byte) : (s.wireOut bs).half = s.half := rfl
@[simp] theorem State.wireOut_alrmw (s : State) (bs : List Byte) : (s.wireOut bs).alrmw = s.alrmw := rfl
@[simp] theorem State.wireOut_alcfg (s : State) (bs : List Byte) : (s.wireOut bs).alcfg = s.alcfg := rfl
@[simp] theorem State.wireOut_wren (s : State) (bs : List Byte) : (s.wireOut bs).wren = s.wren := rfl
@[simp] theorem State.wireOut_prot (s : State) (bs : List Byte) : (s.wireOut bs).prot = s.prot := rfl
@[simp] theorem State.wireOut_keyst (s : State) (bs : List Byte) : (s.wireOut bs).keyst = s.keyst := rfl
@[simp] theorem State.wireOut_almif (s : State) (bs : List Byte) : (s.wireOut bs).almif = s.almif := rfl
@[simp] theorem State.wireOut_irqinh (s : State) (bs : List Byte) : (s.wireOut bs).irqinh = s.irqinh := rfl
@[simp] theorem State.wireOut_params (s : State) (bs : List Byte) : (s.wireOut bs).params = s.params := rfl
@[simp] theorem State.wireOut_freeCount (s : State) (bs : List Byte) : (s.wireOut bs).freeCount = s.freeCount := rfl
@[simp] theorem State.wireOut_tx (s : State) (bs : List Byte) : (s.wireOut bs).tx = s.tx ++ bs := rfl
@[simp] theorem State.wireOut_rx (s : State) (bs : List Byte) : (s.wireOut bs).rx = s.rx := rfl
@[simp] theorem State.wireOut_rxCount (s : State) (bs : List Byte) : (s.wireOut bs).rxCount = s.rxCount := rfl
@[simp] theorem State.wireOut_portCmd (s : State) (bs : List Byte) : (s.wireOut bs).portCmd = s.portCmd := rfl
@[simp] theorem State.wireOut_portPl (s : State) (bs : List Byte) : (s.wireOut bs).portPl = s.portPl := rfl
@[simp] theorem State.wireOut_agenda (s : State) (bs : List Byte) : (s.wireOut bs).agenda = s.agenda := rfl

/-! ### wireIn -/

@[simp] theorem State.wireIn_st (s : State) (bs : List Byte) : (s.wireIn bs).st = s.st := rfl
@[simp] theorem State.wireIn_w (s : State) (bs : List Byte) : (s.wireIn bs).w = s.w := rfl
@[simp] theorem State.wireIn_r (s : State) (bs : List Byte) : (s.wireIn bs).r = s.r := rfl
@[simp] theorem State.wireIn_rb (s : State) (bs : List Byte) : (s.wireIn bs).rb = s.rb := rfl
@[simp] theorem State.wireIn_seq (s : State) (bs : List Byte) : (s.wireIn bs).seq = s.seq := rfl
@[simp] theorem State.wireIn_idx (s : State) (bs : List Byte) : (s.wireIn bs).idx = s.idx := rfl
@[simp] theorem State.wireIn_pollcnt (s : State) (bs : List Byte) : (s.wireIn bs).pollcnt = s.pollcnt := rfl
@[simp] theorem State.wireIn_explen (s : State) (bs : List Byte) : (s.wireIn bs).explen = s.explen := rfl
@[simp] theorem State.wireIn_fb (s : State) (bs : List Byte) : (s.wireIn bs).fb = s.fb := rfl
@[simp] theorem State.wireIn_fblen (s : State) (bs : List Byte) : (s.wireIn bs).fblen = s.fblen := rfl
@[simp] theorem State.wireIn_fbk (s : State) (bs : List Byte) : (s.wireIn bs).fbk = s.fbk := rfl
@[simp] theorem State.wireIn_pri (s : State) (bs : List Byte) : (s.wireIn bs).pri = s.pri := rfl
@[simp] theorem State.wireIn_chk (s : State) (bs : List Byte) : (s.wireIn bs).chk = s.chk := rfl
@[simp] theorem State.wireIn_alm (s : State) (bs : List Byte) : (s.wireIn bs).alm = s.alm := rfl
@[simp] theorem State.wireIn_rtcw (s : State) (bs : List Byte) : (s.wireIn bs).rtcw = s.rtcw := rfl
@[simp] theorem State.wireIn_half (s : State) (bs : List Byte) : (s.wireIn bs).half = s.half := rfl
@[simp] theorem State.wireIn_alrmw (s : State) (bs : List Byte) : (s.wireIn bs).alrmw = s.alrmw := rfl
@[simp] theorem State.wireIn_alcfg (s : State) (bs : List Byte) : (s.wireIn bs).alcfg = s.alcfg := rfl
@[simp] theorem State.wireIn_wren (s : State) (bs : List Byte) : (s.wireIn bs).wren = s.wren := rfl
@[simp] theorem State.wireIn_prot (s : State) (bs : List Byte) : (s.wireIn bs).prot = s.prot := rfl
@[simp] theorem State.wireIn_keyst (s : State) (bs : List Byte) : (s.wireIn bs).keyst = s.keyst := rfl
@[simp] theorem State.wireIn_almif (s : State) (bs : List Byte) : (s.wireIn bs).almif = s.almif := rfl
@[simp] theorem State.wireIn_irqinh (s : State) (bs : List Byte) : (s.wireIn bs).irqinh = s.irqinh := rfl
@[simp] theorem State.wireIn_params (s : State) (bs : List Byte) : (s.wireIn bs).params = s.params := rfl
@[simp] theorem State.wireIn_freeCount (s : State) (bs : List Byte) : (s.wireIn bs).freeCount = s.freeCount := rfl
@[simp] theorem State.wireIn_tx (s : State) (bs : List Byte) : (s.wireIn bs).tx = s.tx := rfl
@[simp] theorem State.wireIn_rx (s : State) (bs : List Byte) : (s.wireIn bs).rx = s.rx ++ bs.map some := rfl
@[simp] theorem State.wireIn_rxCount (s : State) (bs : List Byte) : (s.wireIn bs).rxCount = s.rxCount := rfl
@[simp] theorem State.wireIn_portCmd (s : State) (bs : List Byte) : (s.wireIn bs).portCmd = s.portCmd := rfl
@[simp] theorem State.wireIn_portPl (s : State) (bs : List Byte) : (s.wireIn bs).portPl = s.portPl := rfl
@[simp] theorem State.wireIn_agenda (s : State) (bs : List Byte) : (s.wireIn bs).agenda = s.agenda := rfl

/-! ### compareAlarm -/

@[simp] theorem State.compareAlarm_st (s : State) (e : Bool) : (s.compareAlarm e).st = s.st := by unfold State.compareAlarm; split <;> rfl
@[simp] theorem State.compareAlarm_w (s : State) (e : Bool) : (s.compareAlarm e).w = s.w := by unfold State.compareAlarm; split <;> rfl
@[simp] theorem State.compareAlarm_r (s : State) (e : Bool) : (s.compareAlarm e).r = s.r := by unfold State.compareAlarm; split <;> rfl
@[simp] theorem State.compareAlarm_rb (s : State) (e : Bool) : (s.compareAlarm e).rb = s.rb := by unfold State.compareAlarm; split <;> rfl
@[simp] theorem State.compareAlarm_seq (s : State) (e : Bool) : (s.compareAlarm e).seq = s.seq := by unfold State.compareAlarm; split <;> rfl
@[simp] theorem State.compareAlarm_idx (s : State) (e : Bool) : (s.compareAlarm e).idx = s.idx := by unfold State.compareAlarm; split <;> rfl
@[simp] theorem State.compareAlarm_pollcnt (s : State) (e : Bool) : (s.compareAlarm e).pollcnt = s.pollcnt := by unfold State.compareAlarm; split <;> rfl
@[simp] theorem State.compareAlarm_explen (s : State) (e : Bool) : (s.compareAlarm e).explen = s.explen := by unfold State.compareAlarm; split <;> rfl
@[simp] theorem State.compareAlarm_fb (s : State) (e : Bool) : (s.compareAlarm e).fb = s.fb := by unfold State.compareAlarm; split <;> rfl
@[simp] theorem State.compareAlarm_fblen (s : State) (e : Bool) : (s.compareAlarm e).fblen = s.fblen := by unfold State.compareAlarm; split <;> rfl
@[simp] theorem State.compareAlarm_fbk (s : State) (e : Bool) : (s.compareAlarm e).fbk = s.fbk := by unfold State.compareAlarm; split <;> rfl
@[simp] theorem State.compareAlarm_pri (s : State) (e : Bool) : (s.compareAlarm e).pri = s.pri := by unfold State.compareAlarm; split <;> rfl
@[simp] theorem State.compareAlarm_chk (s : State) (e : Bool) : (s.compareAlarm e).chk = s.chk := by unfold State.compareAlarm; split <;> rfl
@[simp] theorem State.compareAlarm_alm (s : State) (e : Bool) : (s.compareAlarm e).alm = s.alm := by unfold State.compareAlarm; split <;> rfl
@[simp] theorem State.compareAlarm_rtcw (s : State) (e : Bool) : (s.compareAlarm e).rtcw = s.rtcw := by unfold State.compareAlarm; split <;> rfl
@[simp] theorem State.compareAlarm_half (s : State) (e : Bool) : (s.compareAlarm e).half = s.half := by unfold State.compareAlarm; split <;> rfl
@[simp] theorem State.compareAlarm_alrmw (s : State) (e : Bool) : (s.compareAlarm e).alrmw = s.alrmw := by unfold State.compareAlarm; split <;> rfl
@[simp] theorem State.compareAlarm_wren (s : State) (e : Bool) : (s.compareAlarm e).wren = s.wren := by unfold State.compareAlarm; split <;> rfl
@[simp] theorem State.compareAlarm_prot (s : State) (e : Bool) : (s.compareAlarm e).prot = s.prot := by unfold State.compareAlarm; split <;> rfl
@[simp] theorem State.compareAlarm_keyst (s : State) (e : Bool) : (s.compareAlarm e).keyst = s.keyst := by unfold State.compareAlarm; split <;> rfl
@[simp] theorem State.compareAlarm_irqinh (s : State) (e : Bool) : (s.compareAlarm e).irqinh = s.irqinh := by unfold State.compareAlarm; split <;> rfl
@[simp] theorem State.compareAlarm_params (s : State) (e : Bool) : (s.compareAlarm e).params = s.params := by unfold State.compareAlarm; split <;> rfl
@[simp] theorem State.compareAlarm_freeCount (s : State) (e : Bool) : (s.compareAlarm e).freeCount = s.freeCount := by unfold State.compareAlarm; split <;> rfl
@[simp] theorem State.compareAlarm_tx (s : State) (e : Bool) : (s.compareAlarm e).tx = s.tx := by unfold State.compareAlarm; split <;> rfl
@[simp] theorem State.compareAlarm_rx (s : State) (e : Bool) : (s.compareAlarm e).rx = s.rx := by unfold State.compareAlarm; split <;> rfl
@[simp] theorem State.compareAlarm_rxCount (s : State) (e : Bool) : (s.compareAlarm e).rxCount = s.rxCount := by unfold State.compareAlarm; split <;> rfl
@[simp] theorem State.compareAlarm_portCmd (s : State) (e : Bool) : (s.compareAlarm e).portCmd = s.portCmd := by unfold State.compareAlarm; split <;> rfl
@[simp] theorem State.compareAlarm_portPl (s : State) (e : Bool) : (s.compareAlarm e).portPl = s.portPl := by unfold State.compareAlarm; split <;> rfl
@[simp] theorem State.compareAlarm_agenda (s : State) (e : Bool) : (s.compareAlarm e).agenda = s.agenda := by unfold State.compareAlarm; split <;> rfl

/-! ### htick -/

@[simp] theorem State.htick_st (s : State) : (s.htick).st = s.st := by unfold State.htick; split <;> simp_all
@[simp] theorem State.htick_w (s : State) : (s.htick).w = s.w := by unfold State.htick; split <;> simp_all
@[simp] theorem State.htick_r (s : State) : (s.htick).r = s.r := by unfold State.htick; split <;> simp_all
@[simp] theorem State.htick_rb (s : State) : (s.htick).rb = s.rb := by unfold State.htick; split <;> simp_all
@[simp] theorem State.htick_seq (s : State) : (s.htick).seq = s.seq := by unfold State.htick; split <;> simp_all
@[simp] theorem State.htick_idx (s : State) : (s.htick).idx = s.idx := by unfold State.htick; split <;> simp_all
@[simp] theorem State.htick_pollcnt (s : State) : (s.htick).pollcnt = s.pollcnt := by unfold State.htick; split <;> simp_all
@[simp] theorem State.htick_explen (s : State) : (s.htick).explen = s.explen := by unfold State.htick; split <;> simp_all
@[simp] theorem State.htick_fb (s : State) : (s.htick).fb = s.fb := by unfold State.htick; split <;> simp_all
@[simp] theorem State.htick_fblen (s : State) : (s.htick).fblen = s.fblen := by unfold State.htick; split <;> simp_all
@[simp] theorem State.htick_fbk (s : State) : (s.htick).fbk = s.fbk := by unfold State.htick; split <;> simp_all
@[simp] theorem State.htick_pri (s : State) : (s.htick).pri = s.pri := by unfold State.htick; split <;> simp_all
@[simp] theorem State.htick_chk (s : State) : (s.htick).chk = s.chk := by unfold State.htick; split <;> simp_all
@[simp] theorem State.htick_alm (s : State) : (s.htick).alm = s.alm := by unfold State.htick; split <;> simp_all
@[simp] theorem State.htick_rtcw (s : State) : (s.htick).rtcw = (if s.half then advanceWords s.rtcw else s.rtcw) := by unfold State.htick; split <;> simp_all
@[simp] theorem State.htick_half (s : State) : (s.htick).half = !s.half := by unfold State.htick; split <;> simp_all
@[simp] theorem State.htick_alrmw (s : State) : (s.htick).alrmw = s.alrmw := by unfold State.htick; split <;> simp_all
@[simp] theorem State.htick_wren (s : State) : (s.htick).wren = s.wren := by unfold State.htick; split <;> simp_all
@[simp] theorem State.htick_prot (s : State) : (s.htick).prot = s.prot := by unfold State.htick; split <;> simp_all
@[simp] theorem State.htick_keyst (s : State) : (s.htick).keyst = s.keyst := by unfold State.htick; split <;> simp_all
@[simp] theorem State.htick_irqinh (s : State) : (s.htick).irqinh = s.irqinh := by unfold State.htick; split <;> simp_all
@[simp] theorem State.htick_params (s : State) : (s.htick).params = s.params := by unfold State.htick; split <;> simp_all
@[simp] theorem State.htick_freeCount (s : State) : (s.htick).freeCount = s.freeCount := by unfold State.htick; split <;> simp_all
@[simp] theorem State.htick_tx (s : State) : (s.htick).tx = s.tx := by unfold State.htick; split <;> simp_all
@[simp] theorem State.htick_rx (s : State) : (s.htick).rx = s.rx := by unfold State.htick; split <;> simp_all
@[simp] theorem State.htick_rxCount (s : State) : (s.htick).rxCount = s.rxCount := by unfold State.htick; split <;> simp_all
@[simp] theorem State.htick_portCmd (s : State) : (s.htick).portCmd = s.portCmd := by unfold State.htick; split <;> simp_all
@[simp] theorem State.htick_portPl (s : State) : (s.htick).portPl = s.portPl := by unfold State.htick; split <;> simp_all
@[simp] theorem State.htick_agenda (s : State) : (s.htick).agenda = s.agenda := by unfold State.htick; split <;> simp_all

/-! ### almack -/

@[simp] theorem State.almack_st (s : State) : (s.almack).st = s.st := by unfold State.almack; split <;> rfl
@[simp] theorem State.almack_w (s : State) : (s.almack).w = s.w := by unfold State.almack; split <;> rfl
@[simp] theorem State.almack_r (s : State) : (s.almack).r = s.r := by unfold State.almack; split <;> rfl
@[simp] theorem State.almack_rb (s : State) : (s.almack).rb = s.rb := by unfold State.almack; split <;> rfl
@[simp] theorem State.almack_seq (s : State) : (s.almack).seq = s.seq := by unfold State.almack; split <;> rfl
@[simp] theorem State.almack_idx (s : State) : (s.almack).idx = s.idx := by unfold State.almack; split <;> rfl
@[simp] theorem State.almack_pollcnt (s : State) : (s.almack).pollcnt = s.pollcnt := by unfold State.almack; split <;> rfl
@[simp] theorem State.almack_explen (s : State) : (s.almack).explen = s.explen := by unfold State.almack; split <;> rfl
@[simp] theorem State.almack_fb (s : State) : (s.almack).fb = s.fb := by unfold State.almack; split <;> rfl
@[simp] theorem State.almack_fblen (s : State) : (s.almack).fblen = s.fblen := by unfold State.almack; split <;> rfl
@[simp] theorem State.almack_fbk (s : State) : (s.almack).fbk = s.fbk := by unfold State.almack; split <;> rfl
@[simp] theorem State.almack_pri (s : State) : (s.almack).pri = s.pri := by unfold State.almack; split <;> rfl
@[simp] theorem State.almack_chk (s : State) : (s.almack).chk = s.chk := by unfold State.almack; split <;> rfl
@[simp] theorem State.almack_alm (s : State) : (s.almack).alm = s.alm := by unfold State.almack; split <;> rfl
@[simp] theorem State.almack_rtcw (s : State) : (s.almack).rtcw = s.rtcw := by unfold State.almack; split <;> rfl
@[simp] theorem State.almack_half (s : State) : (s.almack).half = s.half := by unfold State.almack; split <;> rfl
@[simp] theorem State.almack_alrmw (s : State) : (s.almack).alrmw = s.alrmw := by unfold State.almack; split <;> rfl
@[simp] theorem State.almack_wren (s : State) : (s.almack).wren = s.wren := by unfold State.almack; split <;> rfl
@[simp] theorem State.almack_prot (s : State) : (s.almack).prot = s.prot := by unfold State.almack; split <;> rfl
@[simp] theorem State.almack_keyst (s : State) : (s.almack).keyst = s.keyst := by unfold State.almack; split <;> rfl
@[simp] theorem State.almack_irqinh (s : State) : (s.almack).irqinh = s.irqinh := by unfold State.almack; split <;> rfl
@[simp] theorem State.almack_params (s : State) : (s.almack).params = s.params := by unfold State.almack; split <;> rfl
@[simp] theorem State.almack_freeCount (s : State) : (s.almack).freeCount = s.freeCount := by unfold State.almack; split <;> rfl
@[simp] theorem State.almack_tx (s : State) : (s.almack).tx = s.tx := by unfold State.almack; split <;> rfl
@[simp] theorem State.almack_rx (s : State) : (s.almack).rx = s.rx := by unfold State.almack; split <;> rfl
@[simp] theorem State.almack_rxCount (s : State) : (s.almack).rxCount = s.rxCount := by unfold State.almack; split <;> rfl
@[simp] theorem State.almack_portCmd (s : State) : (s.almack).portCmd = s.portCmd := by unfold State.almack; split <;> rfl
@[simp] theorem State.almack_portPl (s : State) : (s.almack).portPl = s.portPl := by unfold State.almack; split <;> rfl
@[simp] theorem State.almack_agenda (s : State) : (s.almack).agenda = s.agenda := by unfold State.almack; split <;> rfl

/-! ### resetBlock -/

@[simp] theorem State.resetBlock_params (s : State) : s.resetBlock.params = s.params := rfl
@[simp] theorem State.resetBlock_tx (s : State) : s.resetBlock.tx = s.tx := rfl
@[simp] theorem State.resetBlock_rx (s : State) : s.resetBlock.rx = s.rx := rfl
@[simp] theorem State.resetBlock_rxCount (s : State) : s.resetBlock.rxCount = s.rxCount := rfl
@[simp] theorem State.resetBlock_portCmd (s : State) : s.resetBlock.portCmd = s.portCmd := rfl
@[simp] theorem State.resetBlock_portPl (s : State) : s.resetBlock.portPl = s.portPl := rfl
@[simp] theorem State.resetBlock_agenda (s : State) : s.resetBlock.agenda = s.agenda := rfl
@[simp] theorem State.resetBlock_st (s : State) : s.resetBlock.st = .ok := rfl
@[simp] theorem State.resetBlock_w (s : State) : s.resetBlock.w = false := rfl
@[simp] theorem State.resetBlock_r (s : State) : s.resetBlock.r = 0#32 := rfl
@[simp] theorem State.resetBlock_rb (s : State) : s.resetBlock.rb = [] := rfl
@[simp] theorem State.resetBlock_seq (s : State) : s.resetBlock.seq = .idle := rfl
@[simp] theorem State.resetBlock_idx (s : State) : s.resetBlock.idx = 0 := rfl
@[simp] theorem State.resetBlock_pollcnt (s : State) : s.resetBlock.pollcnt = 0 := rfl
@[simp] theorem State.resetBlock_explen (s : State) : s.resetBlock.explen = 0 := rfl
@[simp] theorem State.resetBlock_fb (s : State) : s.resetBlock.fb = [] := rfl
@[simp] theorem State.resetBlock_fblen (s : State) : s.resetBlock.fblen = 0 := rfl
@[simp] theorem State.resetBlock_fbk (s : State) : s.resetBlock.fbk = .empty := rfl
@[simp] theorem State.resetBlock_pri (s : State) : s.resetBlock.pri = resetSnap := rfl
@[simp] theorem State.resetBlock_chk (s : State) : s.resetBlock.chk = resetSnap := rfl
@[simp] theorem State.resetBlock_alm (s : State) : s.resetBlock.alm = resetAlarm := rfl
@[simp] theorem State.resetBlock_rtcw (s : State) : s.resetBlock.rtcw = s.params.resetTime := rfl
@[simp] theorem State.resetBlock_half (s : State) : s.resetBlock.half = s.params.resetHalf := rfl
@[simp] theorem State.resetBlock_alrmw (s : State) : s.resetBlock.alrmw = resetAlarmWords := rfl
@[simp] theorem State.resetBlock_alcfg (s : State) : s.resetBlock.alcfg = 0#8 := rfl
@[simp] theorem State.resetBlock_wren (s : State) : s.resetBlock.wren = false := rfl
@[simp] theorem State.resetBlock_prot (s : State) : s.resetBlock.prot = 0#8 := rfl
@[simp] theorem State.resetBlock_keyst (s : State) : s.resetBlock.keyst = 0#2 := rfl
@[simp] theorem State.resetBlock_almif (s : State) : s.resetBlock.almif = false := rfl
@[simp] theorem State.resetBlock_irqinh (s : State) : s.resetBlock.irqinh = false := rfl
@[simp] theorem State.resetBlock_freeCount (s : State) : s.resetBlock.freeCount = s.freeCount + 1 := rfl

/-! ### goto and the sequencer -/

theorem State.goto_busy {s : State} {cmd : CmdWord} {pl : List Byte} {j : Nat} (h : s.seq = .busy cmd pl j)
    (k : Nat) : s.goto k = { s with seq := .busy cmd pl k } := by
  unfold State.goto; rw [h]

theorem State.goto_idle {s : State} (h : s.seq = .idle) (k : Nat) : s.goto k = s := by
  unfold State.goto; rw [h]

theorem State.goto_seq {s : State} {cmd : CmdWord} {pl : List Byte} {j : Nat} (h : s.seq = .busy cmd pl j)
    (k : Nat) : (s.goto k).seq = .busy cmd pl k := by
  rw [State.goto_busy h]

end Sys2Proof.Machine
end

