-- ==== Sys2Proof/Laws/Memory.lean ====
section
/-! SUPPORT. The buffer's memory: a read after a write, and that every operation keeps the canonical
form. -/

namespace Sys2Proof.Machine

set_option Elab.async false

theorem Memory.get?_set (m : Memory) (i j : Nat) (b : Byte) :
    Memory.get? (Memory.set m i b) j = if j = i then some b else Memory.get? m j := by
  induction m with
  | nil => simp [Memory.set, Memory.get?]
  | cons c m ih =>
    obtain ⟨a, v⟩ := c
    unfold Memory.set
    split
    · simp [Memory.get?]
    · split
      · subst_vars
        simp only [Memory.get?]
        split <;> rfl
      · simp only [Memory.get?, ih]
        split <;> split <;> simp_all

theorem Memory.get?_setList (bs : List Byte) (m : Memory) (i j : Nat) :
    Memory.get? (Memory.setList m i bs) j =
      if i ≤ j ∧ j < i + bs.length then bs[j - i]? else Memory.get? m j := by
  induction bs generalizing m i with
  | nil =>
    simp only [Memory.setList, List.length_nil]
    rw [if_neg (by omega)]
  | cons b bs ih =>
    simp only [Memory.setList, ih, Memory.get?_set, List.length_cons]
    by_cases hj : j = i
    · subst hj
      rw [if_neg (by omega), if_pos rfl, if_pos (by omega)]
      simp
    · by_cases h : i + 1 ≤ j ∧ j < i + 1 + bs.length
      · rw [if_pos h, if_pos (by omega)]
        obtain ⟨k, hk⟩ : ∃ k, j - i = k + 1 := ⟨j - i - 1, by omega⟩
        rw [hk, List.getElem?_cons_succ, show j - (i + 1) = k by omega]
      · rw [if_neg h, if_neg hj, if_neg (by omega)]

/-- A write specifies the byte it writes and no other (R43). -/
theorem Memory.get?_setList_isSome (bs : List Byte) (m : Memory) (i j : Nat) :
    (Memory.get? (Memory.setList m i bs) j).isSome =
      (decide (i ≤ j ∧ j < i + bs.length) || (Memory.get? m j).isSome) := by
  rw [Memory.get?_setList]
  by_cases h : i ≤ j ∧ j < i + bs.length
  · simp only [h, and_self, if_true, decide_true, Bool.true_or]
    rw [List.getElem?_eq_getElem (by omega)]
    rfl
  · simp [h]

theorem Memory.mem_set {m : Memory} {i : Nat} {b : Byte} {c : Host.Cell} (h : c ∈ Memory.set m i b) :
    c = (i, b) ∨ c ∈ m := by
  induction m with
  | nil => simpa [Memory.set] using h
  | cons d m ih =>
    obtain ⟨a, v⟩ := d
    unfold Memory.set at h
    split at h
    · simpa using h
    · split at h
      · simp only [List.mem_cons] at h ⊢
        rcases h with h | h
        · exact .inl h
        · exact .inr (.inr h)
      · simp only [List.mem_cons] at h ⊢
        rcases h with h | h
        · exact .inr (.inl h)
        · exact (ih h).imp id .inr

theorem Memory.wf_nil (n : Nat) : Memory.wf n [] := by simp [Memory.wf]

theorem Memory.rising_set {m : Memory} (i : Nat) (b : Byte) (hs : m.Pairwise (fun x y => x.1 < y.1)) :
    (Memory.set m i b).Pairwise (fun x y => x.1 < y.1) := by
  induction m with
  | nil => simp [Memory.set]
  | cons d m ih =>
    obtain ⟨a, v⟩ := d
    rw [List.pairwise_cons] at hs
    unfold Memory.set
    split
    · rename_i h
      refine List.pairwise_cons.2 ⟨fun c hc => ?_, List.pairwise_cons.2 hs⟩
      rcases List.mem_cons.1 hc with rfl | hc
      · exact h
      · exact Nat.lt_trans h (hs.1 c hc)
    · split
      · rename_i h
        exact List.pairwise_cons.2 ⟨fun c hc => h ▸ hs.1 c hc, hs.2⟩
      · rename_i h1 h2
        refine List.pairwise_cons.2 ⟨fun c hc => ?_, ih hs.2⟩
        rcases Memory.mem_set hc with rfl | hc
        · exact (by omega : a < i)
        · exact hs.1 c hc

theorem Memory.wf_set {n : Nat} {m : Memory} {i : Nat} (b : Byte) (hm : Memory.wf n m) (hi : i < n) :
    Memory.wf n (Memory.set m i b) := by
  refine ⟨Memory.rising_set i b hm.1, fun c hc => ?_⟩
  rcases Memory.mem_set hc with rfl | hc
  · exact hi
  · exact hm.2 c hc

theorem Memory.wf_setList {n : Nat} (bs : List Byte) {m : Memory} {i : Nat} (hm : Memory.wf n m)
    (hi : i + bs.length ≤ n) : Memory.wf n (Memory.setList m i bs) := by
  induction bs generalizing m i with
  | nil => exact hm
  | cons b bs ih =>
    simp only [List.length_cons] at hi
    exact ih (Memory.wf_set b hm (by omega)) (by omega)

/-! ### Reading the buffer -/

theorem State.fbByte_congr {s t : State} (h : Memory.get? t.fb = Memory.get? s.fb)
    (hc : t.freeCount = s.freeCount) (i : Nat) : t.fbByte i = s.fbByte i := by
  unfold State.fbByte; rw [h, hc]

theorem State.fbByte_specified {s : State} {i : Nat} {b : Byte} (h : Memory.get? s.fb i = some b) :
    s.fbByte i = b := by
  unfold State.fbByte; rw [h]

@[simp] theorem State.length_fbBytes (s : State) (off n : Nat) : (s.fbBytes off n).length = n := by
  simp [State.fbBytes]

theorem State.getElem?_fbBytes (s : State) (off n j : Nat) :
    (s.fbBytes off n)[j]? = if j < n then some (s.fbByte (off + j)) else none := by
  unfold State.fbBytes
  by_cases h : j < n <;> simp [h]

theorem State.getD_fbBytes (s : State) (off n j : Nat) (h : j < n) (d : Byte) :
    (s.fbBytes off n).getD j d = s.fbByte (off + j) := by
  rw [List.getD_eq_getElem?_getD, State.getElem?_fbBytes, if_pos h]
  rfl

theorem State.fbBytes_congr {s t : State} {off n : Nat}
    (h : ∀ j, j < n → t.fbByte (off + j) = s.fbByte (off + j)) : t.fbBytes off n = s.fbBytes off n := by
  unfold State.fbBytes
  exact List.map_congr_left fun j hj => h j (List.mem_range.1 hj)

/-- What is read back after a store from index 0 is what was stored. -/
theorem State.fbBytes_stored {s : State} {m : Memory} {bs : List Byte} {off : Nat}
    (h : s.fb = Memory.setList m off bs) : s.fbBytes off bs.length = bs := by
  apply List.ext_getElem?
  intro j
  rw [State.getElem?_fbBytes]
  by_cases hj : j < bs.length
  · rw [if_pos hj, List.getElem?_eq_getElem hj]
    refine congrArg some (State.fbByte_specified ?_)
    rw [h, Memory.get?_setList, if_pos (by omega), Nat.add_sub_cancel_left,
      List.getElem?_eq_getElem hj]
  · rw [if_neg hj, List.getElem?_eq_none (by omega)]

end Sys2Proof.Machine
end

