-- ==== Sys2Proof/Laws/Ops.lean ====
section
/-! SUPPORT. One lemma per shared operation, saying once what it can do: what holds if it answers a
next state, and when it does. Later proofs cite these and do not unfold the operations. -/

namespace Sys2Proof.Machine

set_option Elab.async false

/-! ### The buffer -/

theorem State.readFb_of_le {s : State} {off n : Nat} {cont : List Byte → Result}
    (h : off + n ≤ s.params.fbSize) : s.readFb off n cont = cont (s.fbBytes off n) := by
  unfold State.readFb; rw [if_pos h]

theorem State.readFb_next {s t : State} {off n : Nat} {cont : List Byte → Result}
    (h : s.readFb off n cont = .next t) :
    off + n ≤ s.params.fbSize ∧ cont (s.fbBytes off n) = .next t := by
  unfold State.readFb at h
  split at h
  · exact ⟨‹_›, h⟩
  · cases h

theorem State.writeFb_of_le {s : State} {off : Nat} {bs : List Byte} {cont : State → Result}
    (h : off + bs.length ≤ s.params.fbSize) :
    s.writeFb off bs cont = cont { s with fb := Memory.setList s.fb off bs } := by
  unfold State.writeFb; rw [if_pos h]

theorem State.writeFb_next {s t : State} {off : Nat} {bs : List Byte} {cont : State → Result}
    (h : s.writeFb off bs cont = .next t) :
    off + bs.length ≤ s.params.fbSize ∧ cont { s with fb := Memory.setList s.fb off bs } = .next t := by
  unfold State.writeFb at h
  split at h
  · exact ⟨‹_›, h⟩
  · cases h

theorem State.loadFb_of_le {s : State} {bs : List Byte} {kind : BufKind} {cont : State → Result}
    (h : bs.length ≤ s.params.fbSize) :
    s.loadFb bs kind cont =
      cont { s with fb := Memory.setList s.fb 0 bs, fblen := bs.length, fbk := kind } := by
  unfold State.loadFb; rw [State.writeFb_of_le (by omega)]

theorem State.loadFb_next {s t : State} {bs : List Byte} {kind : BufKind} {cont : State → Result}
    (h : s.loadFb bs kind cont = .next t) :
    bs.length ≤ s.params.fbSize ∧
      cont { s with fb := Memory.setList s.fb 0 bs, fblen := bs.length, fbk := kind } = .next t := by
  obtain ⟨h1, h2⟩ := State.writeFb_next h
  exact ⟨by omega, h2⟩

/-- What a store into the buffer changes, byte by byte. -/
theorem bytesStored_setList {s t : State} {off : Nat} {bs : List Byte}
    (hfb : t.fb = Memory.setList s.fb off bs) (hc : t.freeCount = s.freeCount) : BytesStored s t off bs := by
  refine ⟨fun j hj => ?_, fun i hi => ?_⟩
  · apply State.fbByte_specified
    rw [hfb, Memory.get?_setList, if_pos (by omega), Nat.add_sub_cancel_left,
      List.getElem?_eq_getElem hj, List.getD_eq_getElem?_getD, List.getElem?_eq_getElem hj]
    rfl
  · unfold State.fbByte
    rw [hfb, hc, Memory.get?_setList, if_neg (by omega)]

theorem State.buildFrame_of_le {s : State} {f : List Byte} (h : f.length ≤ s.params.fbSize) :
    s.buildFrame f = .next ({ s with fb := Memory.setList s.fb 0 f, fblen := f.length, fbk := .good }.done
      (BitVec.ofNat 32 f.length) f false) := by
  unfold State.buildFrame; rw [State.loadFb_of_le h]

theorem State.buildFrame_next {s t : State} {f : List Byte} (h : s.buildFrame f = .next t) :
    f.length ≤ s.params.fbSize ∧
      t = ({ s with fb := Memory.setList s.fb 0 f, fblen := f.length, fbk := .good }.done
        (BitVec.ofNat 32 f.length) f false) := by
  obtain ⟨h1, h2⟩ := State.loadFb_next h
  exact ⟨h1, (Host.Outcome.next.inj h2).symm⟩

/-! ### The payload window (R161) -/

theorem State.payload_of_notGood {s : State} {off w : Nat} {cont : List Byte → Result}
    (h : s.fbk ≠ .good) : s.payload off w cont = .next (s.raise .notValid) := by
  unfold State.payload; rw [if_pos h]

theorem State.payload_of_outside {s : State} {off w : Nat} {cont : List Byte → Result}
    (h : s.fbk = .good) (hw : s.fblen < 5 + off + w) :
    s.payload off w cont = .next (s.raise .badArg) := by
  unfold State.payload
  rw [if_neg (by simp [h]), if_pos (by omega)]

theorem State.payload_of_inside {s : State} {off w : Nat} {cont : List Byte → Result}
    (h : s.fbk = .good) (hw : 5 + off + w ≤ s.fblen) (hs : s.fblen ≤ s.params.fbSize) :
    s.payload off w cont = cont (s.fbBytes (3 + off) w) := by
  unfold State.payload
  rw [if_neg (by simp [h]), if_neg (by omega), State.readFb_of_le (by omega)]

theorem State.payload_next {s t : State} {off w : Nat} {cont : List Byte → Result}
    (h : s.payload off w cont = .next t) :
    (s.fbk ≠ .good ∧ t = s.raise .notValid) ∨
    (s.fbk = .good ∧ s.fblen < 5 + off + w ∧ t = s.raise .badArg) ∨
    (s.fbk = .good ∧ 5 + off + w ≤ s.fblen ∧ 3 + off + w ≤ s.params.fbSize ∧
      cont (s.fbBytes (3 + off) w) = .next t) := by
  unfold State.payload at h
  split at h
  · exact .inl ⟨‹_›, (Host.Outcome.next.inj h).symm⟩
  · rename_i hg
    rw [not_not] at hg
    split at h
    · exact .inr (.inl ⟨hg, by omega, (Host.Outcome.next.inj h).symm⟩)
    · obtain ⟨h1, h2⟩ := State.readFb_next h
      exact .inr (.inr ⟨hg, by omega, by omega, h2⟩)

/-! ### The setters (R221) -/

theorem State.setField_clk {s : State} {xw : Nat × Bool} {f : Snap → Byte → Snap}
    {g : AlarmSnap → Byte → AlarmSnap} :
    s.setField 0#8 xw f g = { s with pri := f s.pri (bin2bcd xw.1) }.done (setterResult xw.1) [] xw.2 := rfl

theorem State.setField_alm {s : State} {xw : Nat × Bool} {f : Snap → Byte → Snap}
    {g : AlarmSnap → Byte → AlarmSnap} :
    s.setField 1#8 xw f g = { s with alm := g s.alm (bin2bcd xw.1) }.done (setterResult xw.1) [] xw.2 := rfl

theorem State.setField_other {s : State} {a : Byte} {xw : Nat × Bool} {f : Snap → Byte → Snap}
    {g : AlarmSnap → Byte → AlarmSnap} (h0 : a ≠ 0#8) (h1 : a ≠ 1#8) :
    s.setField a xw f g = s.raise .badArg := by
  unfold State.setField; rw [if_neg h0, if_neg h1]

theorem wrap60_le (v : Nat) : (wrap60 v).1 ≤ 59 := by
  unfold wrap60; split <;> (simp; try omega)

theorem wrap24_le (v : Nat) : (wrap24 v).1 ≤ 23 := by
  unfold wrap24; split <;> (simp; try omega)

theorem wrap100_le (v : Nat) : (wrap100 v).1 ≤ 99 := by
  unfold wrap100; split <;> (simp; try omega)

theorem wrapMonth_range (v : Nat) : 1 ≤ (wrapMonth v).1 ∧ (wrapMonth v).1 ≤ 12 := by
  unfold wrapMonth; split <;> [simp; (split <;> (simp; try omega))]

theorem wrapDay_range {ld v : Nat} (h : 1 ≤ ld) : 1 ≤ (wrapDay ld v).1 ∧ (wrapDay ld v).1 ≤ ld := by
  unfold wrapDay; split <;> [simp_all; (split <;> (simp; try omega))]

/-! ### The transaction (R182 to R186) -/

theorem State.xactBuild_next {s t : State} {f : List Byte} (h : s.xactBuild f = .next t) :
    f.length ≤ s.params.fbSize ∧
      t = { s with fb := Memory.setList s.fb 0 f, fblen := f.length, fbk := .good, idx := 0 }.goto 2 := by
  obtain ⟨h1, h2⟩ := State.loadFb_next h
  exact ⟨h1, (Host.Outcome.next.inj h2).symm⟩

theorem State.xactSend_next {s t : State} (h : s.xactSend = .next t) :
    (s.idx < s.fblen ∧ s.idx < s.params.fbSize ∧
      t = ({ s with idx := s.idx + 1 }.txByte (s.fbByte s.idx)).goto (if s.idx + 1 < s.fblen then 2 else 3)) ∨
    (s.fblen ≤ s.idx ∧ t = s.goto 3) := by
  unfold State.xactSend at h
  split at h
  · obtain ⟨h1, h2⟩ := State.readFb_next h
    exact .inl ⟨‹_›, by omega, (Host.Outcome.next.inj h2).symm⟩
  · exact .inr ⟨by omega, (Host.Outcome.next.inj h).symm⟩

theorem State.xactByte_next {s t : State} {b : Byte} (h : s.xactByte b = .next t) :
    s.idx < s.params.fbSize ∧
    ((s.idx + 1 = s.explen ∧ t = { s with fb := Memory.set s.fb s.idx b, idx := s.idx + 1 }.goto 5) ∨
     (s.idx + 1 ≠ s.explen ∧
      t = { s with
        fb := Memory.set s.fb s.idx b
        idx := s.idx + 1
        pollcnt := s.params.pollBudget })) := by
  obtain ⟨h1, h2⟩ := State.writeFb_next h
  refine ⟨by simpa using h1, ?_⟩
  split at h2
  · exact .inl ⟨‹_›, (Host.Outcome.next.inj h2).symm⟩
  · exact .inr ⟨‹_›, (Host.Outcome.next.inj h2).symm⟩

theorem State.xactNone_cases (s : State) :
    (s.pollcnt - 1 = 0 ∧
      s.xactNone = .next ({ s with pollcnt := s.pollcnt - 1 }.havocFb.raise .timeout)) ∨
    (s.pollcnt - 1 ≠ 0 ∧ s.xactNone = .next { s with pollcnt := s.pollcnt - 1 }) := by
  unfold State.xactNone
  by_cases h : s.pollcnt - 1 = 0
  · exact .inl ⟨h, by rw [if_pos h]⟩
  · exact .inr ⟨h, by rw [if_neg h]⟩

theorem State.xactCheck_next {s t : State} {ok : State → Result} (h : s.xactCheck ok = .next t) :
    s.explen ≤ s.params.fbSize ∧
    ((verifyFrame (s.fbBytes 0 s.explen) = true ∧ ok { s with fblen := s.explen, fbk := .good } = .next t) ∨
     (verifyFrame (s.fbBytes 0 s.explen) = false ∧
      t = { s with fblen := s.explen, fbk := .bad }.raise .checksumMismatch)) := by
  obtain ⟨h1, h2⟩ := State.readFb_next h
  refine ⟨by omega, ?_⟩
  split at h2
  · exact .inl ⟨‹_›, h2⟩
  · exact .inr ⟨Bool.eq_false_iff.2 ‹_›, (Host.Outcome.next.inj h2).symm⟩

/-- What one step of a transaction can do: the five numbered steps (R202). -/
theorem State.xact_next {s t : State} {k : Nat} {f : List Byte} {n : Nat} {ok : State → Result}
    (h : s.xact k f n ok = .next t) :
    (k = 1 ∧ s.xactBuild f = .next t) ∨ (k = 2 ∧ s.xactSend = .next t) ∨
    (k = 3 ∧
      t = { s.havocFb with fbk := .unspec, idx := 0, explen := n, pollcnt := s.params.pollBudget }.goto 4) ∨
    (k = 4 ∧ s.xactPoll = .next t) ∨ (k = 5 ∧ s.xactCheck ok = .next t) := by
  match k, h with
  | 1, h => exact .inl ⟨rfl, h⟩
  | 2, h => exact .inr (.inl ⟨rfl, h⟩)
  | 3, h => exact .inr (.inr (.inl ⟨rfl, (Host.Outcome.next.inj h).symm⟩))
  | 4, h => exact .inr (.inr (.inr (.inl ⟨rfl, h⟩)))
  | 5, h => exact .inr (.inr (.inr (.inr ⟨rfl, h⟩)))
  | 0, h => cases h
  | _ + 6, h => cases h

theorem State.xactPoll_cases (s : State) :
    (∃ b, s.rxNext = some b ∧ s.xactPoll = s.renewFree.rxAdvance.xactByte b) ∨
    (s.rxNext = none ∧ s.xactPoll = s.renewFree.rxAdvance.xactNone) := by
  unfold State.xactPoll
  cases h : s.rxNext with
  | none => exact .inr ⟨rfl, rfl⟩
  | some b => exact .inl ⟨b, rfl, rfl⟩

/-! ### The agenda -/

/-- What a step can do: what is unspecified is so anew, and then the event at the head of the agenda
occurs, or, where there is none or the port is closed, the sequencer moves (R12, R27, R43, R286). -/
theorem step_cases (s : State) :
    (s.agenda = [] ∧ step s = s.renewFree.micro) ∨
    (∃ rest, s.agenda = .micro :: rest ∧ step s = { s.renewFree with agenda := rest }.micro) ∨
    (∃ rest, s.agenda = .htick :: rest ∧ step s = .next { s.renewFree with agenda := rest }.htick) ∨
    (∃ rest, s.agenda = .almack :: rest ∧ step s = .next { s.renewFree with agenda := rest }.almack) ∨
    (∃ rest, s.agenda = .reset :: rest ∧ step s = .next { s.renewFree with agenda := rest }.resetBlock) ∨
    (∃ fmt bytes rest, s.agenda = .input (.wire fmt bytes) :: rest ∧
      step s = { s.renewFree with agenda := rest }.carry fmt bytes) ∨
    (∃ cmd pl rest, s.agenda = .input (.command cmd pl) :: rest ∧ s.seq = .idle ∧
      step s = { s.renewFree with agenda := rest }.issue cmd pl) ∨
    (∃ cmd pl rest, s.agenda = .input (.command cmd pl) :: rest ∧ s.seq ≠ .idle ∧
      step s = s.renewFree.micro) := by
  unfold step State.nextStep State.headEvent
  rw [State.renewFree_agenda, State.renewFree_seq]
  match h : s.agenda with
  | [] => simp
  | .micro :: rest => simp
  | .htick :: rest => simp
  | .almack :: rest => simp
  | .reset :: rest => simp
  | .input (.wire fmt bytes) :: rest => simp
  | .input (.command cmd pl) :: rest =>
    cases hs : s.seq <;> simp [hs]

/-- Bytes on the wire: a request's are logged as sent, a response's wait for later polls, and the block
is unchanged, whether or not they are a frame of their format (log 9, log 16). -/
theorem State.carry_of_error {s : State} {fmt : WireFormat} {bytes : List Byte} {e : DecodeError}
    (h : decodeFrame s.params.wrByteCount fmt bytes = .error e) :
    s.carry fmt bytes =
      .next (if fmt = .req03 ∨ fmt = .req16 then s.wireOut bytes else s.wireIn bytes) := by
  unfold State.carry
  rw [h]
  cases fmt <;> rfl

end Sys2Proof.Machine
end

