-- ==== Sys2Proof/Laws/PerInstr.lean ====
section
/-! SUPPORT. A family of statements about every instruction as syntax: its encoding carries the fixed
bits of its row of spec/opcode_table.json (R102, R104 to R108). -/

namespace Sys2Proof.Laws

set_option Elab.async false

open Sys2Proof.Machine

/-- The fixed bits of a row: the `op` of a command, the function code of a wire format; RSP16 has
none. -/
def rowCode : Instr → Option Byte
  | .bldrd _ _ _ => some 0x01#8
  | .bldwr _ _ _ => some 0x02#8
  | .seal _ => some 0x03#8
  | .verify => some 0x04#8
  | .ldfb _ => some 0x05#8
  | .rdfb => some 0x06#8
  | .crc16 _ => some 0x07#8
  | .decf32s _ => some 0x10#8
  | .deci32 _ => some 0x11#8
  | .decu16 _ => some 0x12#8
  | .decstr _ _ => some 0x13#8
  | .decbcd6 _ => some 0x14#8
  | .rdhold _ _ _ => some 0x20#8
  | .wrmult _ _ _ => some 0x21#8
  | .unlock => some 0x22#8
  | .ckread => some 0x30#8
  | .ckcommit => some 0x31#8
  | .wkday _ _ _ => some 0x32#8
  | .setsec _ _ => some 0x33#8
  | .setmin _ _ => some 0x34#8
  | .sethour _ _ => some 0x35#8
  | .setday _ _ => some 0x36#8
  | .setmon _ _ => some 0x37#8
  | .setyear _ _ => some 0x38#8
  | .setalm => some 0x39#8
  | .armalm _ => some 0x3A#8
  | .rdsnap _ => some 0x3B#8
  | .rdstat => some 0x3C#8
  | .req03 _ _ _ _ _ => some 0x03#8
  | .req16 _ _ _ _ _ _ _ => some 0x10#8
  | .rsp03 _ _ _ _ _ => some 0x03#8
  | .rsp16 _ _ _ => none

/-- The encoding carries its row's fixed bits: `op` in bits 47:40, the function code in byte 1. -/
def OpcodeRow.Statement (i : Instr) : Prop :=
  match encode i with
  | .command cmd _ => some (opField cmd) = rowCode i
  | .wire _ bytes => rowCode i = none ∨ bytes[1]? = rowCode i

theorem OpcodeRow.bldrd (a : Byte) (b c : Half) : OpcodeRow.Statement (.bldrd a b c) := by
  simp [OpcodeRow.Statement, encode, rowCode]

theorem OpcodeRow.bldwr (a : Byte) (b : Half) (pl : List Byte) : OpcodeRow.Statement (.bldwr a b pl) := by
  simp [OpcodeRow.Statement, encode, rowCode]

theorem OpcodeRow.seal (pl : List Byte) : OpcodeRow.Statement (.seal pl) := by
  simp [OpcodeRow.Statement, encode, rowCode]

theorem OpcodeRow.verify : OpcodeRow.Statement .verify := by
  simp [OpcodeRow.Statement, encode, rowCode]

theorem OpcodeRow.ldfb (pl : List Byte) : OpcodeRow.Statement (.ldfb pl) := by
  simp [OpcodeRow.Statement, encode, rowCode]

theorem OpcodeRow.rdfb : OpcodeRow.Statement .rdfb := by
  simp [OpcodeRow.Statement, encode, rowCode]

theorem OpcodeRow.crc16 (pl : List Byte) : OpcodeRow.Statement (.crc16 pl) := by
  simp [OpcodeRow.Statement, encode, rowCode]

theorem OpcodeRow.decf32s (c : Half) : OpcodeRow.Statement (.decf32s c) := by
  simp [OpcodeRow.Statement, encode, rowCode]

theorem OpcodeRow.deci32 (c : Half) : OpcodeRow.Statement (.deci32 c) := by
  simp [OpcodeRow.Statement, encode, rowCode]

theorem OpcodeRow.decu16 (c : Half) : OpcodeRow.Statement (.decu16 c) := by
  simp [OpcodeRow.Statement, encode, rowCode]

theorem OpcodeRow.decstr (a : Byte) (c : Half) : OpcodeRow.Statement (.decstr a c) := by
  simp [OpcodeRow.Statement, encode, rowCode]

theorem OpcodeRow.decbcd6 (c : Half) : OpcodeRow.Statement (.decbcd6 c) := by
  simp [OpcodeRow.Statement, encode, rowCode]

theorem OpcodeRow.rdhold (a : Byte) (b c : Half) : OpcodeRow.Statement (.rdhold a b c) := by
  simp [OpcodeRow.Statement, encode, rowCode]

theorem OpcodeRow.wrmult (a : Byte) (b : Half) (pl : List Byte) : OpcodeRow.Statement (.wrmult a b pl) := by
  simp [OpcodeRow.Statement, encode, rowCode]

theorem OpcodeRow.unlock : OpcodeRow.Statement .unlock := by
  simp [OpcodeRow.Statement, encode, rowCode]

theorem OpcodeRow.ckread : OpcodeRow.Statement .ckread := by
  simp [OpcodeRow.Statement, encode, rowCode]

theorem OpcodeRow.ckcommit : OpcodeRow.Statement .ckcommit := by
  simp [OpcodeRow.Statement, encode, rowCode]

theorem OpcodeRow.wkday (y m d : Byte) : OpcodeRow.Statement (.wkday y m d) := by
  simp [OpcodeRow.Statement, encode, rowCode]

theorem OpcodeRow.setsec (a v : Byte) : OpcodeRow.Statement (.setsec a v) := by
  simp [OpcodeRow.Statement, encode, rowCode]

theorem OpcodeRow.setmin (a v : Byte) : OpcodeRow.Statement (.setmin a v) := by
  simp [OpcodeRow.Statement, encode, rowCode]

theorem OpcodeRow.sethour (a v : Byte) : OpcodeRow.Statement (.sethour a v) := by
  simp [OpcodeRow.Statement, encode, rowCode]

theorem OpcodeRow.setday (a v : Byte) : OpcodeRow.Statement (.setday a v) := by
  simp [OpcodeRow.Statement, encode, rowCode]

theorem OpcodeRow.setmon (a v : Byte) : OpcodeRow.Statement (.setmon a v) := by
  simp [OpcodeRow.Statement, encode, rowCode]

theorem OpcodeRow.setyear (a v : Byte) : OpcodeRow.Statement (.setyear a v) := by
  simp [OpcodeRow.Statement, encode, rowCode]

theorem OpcodeRow.setalm : OpcodeRow.Statement .setalm := by
  simp [OpcodeRow.Statement, encode, rowCode]

theorem OpcodeRow.armalm (m : BitVec 4) : OpcodeRow.Statement (.armalm m) := by
  simp [OpcodeRow.Statement, encode, rowCode]

theorem OpcodeRow.rdsnap (a : Byte) : OpcodeRow.Statement (.rdsnap a) := by
  simp [OpcodeRow.Statement, encode, rowCode]

theorem OpcodeRow.rdstat : OpcodeRow.Statement .rdstat := by
  simp [OpcodeRow.Statement, encode, rowCode]

theorem OpcodeRow.req03 (s : Byte) (a n : Half) (l h : Byte) : OpcodeRow.Statement (.req03 s a n l h) := Or.inr rfl

theorem OpcodeRow.req16 (s : Byte) (a n : Half) (k : Option Byte) (payload : List Byte) (l h : Byte) : OpcodeRow.Statement (.req16 s a n k payload l h) := Or.inr rfl

theorem OpcodeRow.rsp03 (s k : Byte) (payload : List Byte) (l h : Byte) : OpcodeRow.Statement (.rsp03 s k payload l h) := Or.inr rfl

theorem OpcodeRow.rsp16 (body : List Byte) (l h : Byte) : OpcodeRow.Statement (.rsp16 body l h) := Or.inl rfl

end Sys2Proof.Laws
end

