-- ==== Sys2Proof/Tests/Slice0.lean ====
section
/-! SUPPORT. Tests: expected values are those of spec/95_test_vectors.md (named V<n>) and of the rules'
own examples; and for every obligation with hypotheses a concrete state that meets them (the theorems
`witness_…`). Example parameters are those the vectors are computed with. -/

namespace Sys2Proof.Tests

set_option Elab.async false

open Sys2Proof Sys2Proof.Machine

/-- The parameters of the vectors: the defaults of R9 and, for the OPEN ones, the values the examples
choose (`POLL_BUDGET = 3`, R192's UNLOCK); the keys are arbitrary. -/
def ex : Params where
  fbSize := 256
  pollBudget := 3
  wrRspLen := 8
  wrByteCount := false
  f32Perm := ⟨3, 2, 1, 0⟩
  unlockSlave := 0x01#8
  unlockAddr := 0x0100#16
  unlockKey := [0x12#8, 0x34#8]
  key1 := 0x11#8
  key2 := 0x22#8
  resetTime := defaultResetTime
  resetHalf := false
  tornRetryMax := 2
  checkOrder := .alarmFirst

/-- The state after reset, with the example parameters. -/
def s0 : State := State.resetOf ex

/-- `s0` with a buffer content and its tag. -/
def buffer (kind : BufKind) (bs : List Byte) : State :=
  { s0 with fb := Memory.setList [] 0 bs, fblen := bs.length, fbk := kind }

/-- `s0` before micro-step `k` of the command with this word and payload. -/
def at' (cmd : CmdWord) (pl : List Byte) (k : Nat) (s : State) : State := { s with seq := .busy cmd pl k }

/-- What a step leaves of the state, looked at through `f`. -/
def see {α : Type} (f : State → α) : Result → Option α
  | .next s => some (f s)
  | .fault _ => none
  | .refused _ => none

/-- The response (R101). -/
def resp (s : State) : Status × Bool × Nat × List Byte := (s.st, s.w, s.r.toNat, s.rb)

/-- A list of bytes from numerals. -/
def bs (l : List Nat) : List Byte := l.map (BitVec.ofNat 8)

/-! ## Well-formedness: each check refuses an ill-formed term -/

theorem test_params_ok : ex.ok = true := by decide
theorem test_params_small_buffer : { ex with fbSize := 7 }.ok = false := by decide
theorem test_params_no_budget : { ex with pollBudget := 0 }.ok = false := by decide
theorem test_params_short_response : { ex with wrRspLen := 4 }.ok = false := by decide
theorem test_params_long_response : { ex with wrRspLen := 257 }.ok = false := by decide
theorem test_params_no_permutation : { ex with f32Perm := ⟨3, 2, 1, 3⟩ }.ok = false := by decide
theorem test_params_odd_key : { ex with unlockKey := bs [1] }.ok = false := by decide
theorem test_params_long_key : { ex with fbSize := 9 }.ok = false := by decide
theorem test_params_wrong_weekday :
    { ex with resetTime := ⟨0x0000#16, 0x0500#16, 0x0101#16, 0x0000#16⟩ }.ok = false := by decide
theorem test_params_high_byte :
    { ex with resetTime := ⟨0x0000#16, 0x0600#16, 0x0101#16, 0x0100#16⟩ }.ok = false := by decide
theorem test_wf_payload_too_long :
    Instr.wf { ex with fbSize := 8 } (.ldfb (List.replicate 9 0#8)) = false := by decide
theorem test_wf_req03 : Instr.wf ex (.req03 0x01#8 0#16 2#16 0xC4#8 0x0B#8) = true := by decide +kernel
theorem test_wf_req03_checksum : Instr.wf ex (.req03 0x01#8 0#16 2#16 0xC4#8 0x0C#8) = false := by decide +kernel
theorem test_wf_req16 :
    Instr.wf ex (.req16 0x01#8 0x10#16 1#16 none (bs [0x12, 0x34]) 0x0D#8 0x72#8) = true := by decide +kernel
theorem test_wf_req16_count :
    Instr.wf ex (.req16 0x01#8 0x10#16 2#16 none (bs [0x12, 0x34]) 0x0D#8 0x72#8) = false := by decide
theorem test_wf_req16_byte_count :
    Instr.wf ex (.req16 0x01#8 0x10#16 1#16 (some 2#8) (bs [0x12, 0x34]) 0xA9#8 0xB7#8) = false := by decide
theorem test_wf_rsp03_byte_count :
    Instr.wf ex (.rsp03 0x01#8 3#8 (bs [0, 0, 0x80, 0x3F]) 0xDB#8 0xE3#8) = false := by decide
theorem test_wf_rsp16_length : Instr.wf ex (.rsp16 [] 0xFF#8 0xFF#8) = false := by decide

/-! ## Decoding: words written out from the tables of R100, R102 and R105 to R108 -/

theorem test_decode_codec :
    decodeCommand 0x01F712340001#48 [] = .ok (.bldrd 0xF7#8 0x1234#16 0x0001#16) ∧
    decodeCommand 0x021100010000#48 (bs [0, 10]) = .ok (.bldwr 0x11#8 0x0001#16 (bs [0, 10])) ∧
    decodeCommand 0x030000000000#48 (bs [1]) = .ok (.seal (bs [1])) ∧
    decodeCommand 0x040000000000#48 [] = .ok .verify ∧
    decodeCommand 0x050000000000#48 (bs [1]) = .ok (.ldfb (bs [1])) ∧
    decodeCommand 0x060000000000#48 [] = .ok .rdfb ∧
    decodeCommand 0x070000000000#48 (bs [1]) = .ok (.crc16 (bs [1])) := by decide

theorem test_decode_transcoder :
    decodeCommand 0x100000000001#48 [] = .ok (.decf32s 1#16) ∧
    decodeCommand 0x110000000004#48 [] = .ok (.deci32 4#16) ∧
    decodeCommand 0x120000000002#48 [] = .ok (.decu16 2#16) ∧
    decodeCommand 0x130300000003#48 [] = .ok (.decstr 3#8 3#16) ∧
    decodeCommand 0x14000000ABCD#48 [] = .ok (.decbcd6 0xABCD#16) := by decide

theorem test_decode_client :
    decodeCommand 0x20010000007E#48 [] = .ok (.rdhold 1#8 0#16 126#16) ∧
    decodeCommand 0x210100100000#48 (bs [0x12, 0x34]) = .ok (.wrmult 1#8 0x10#16 (bs [0x12, 0x34])) ∧
    decodeCommand 0x220000000000#48 [] = .ok .unlock := by decide

theorem test_decode_clock :
    decodeCommand 0x300000000000#48 [] = .ok .ckread ∧
    decodeCommand 0x310000000000#48 [] = .ok .ckcommit ∧
    decodeCommand 0x3208000C001F#48 [] = .ok (.wkday 8#8 12#8 31#8) ∧
    decodeCommand 0x33000000003C#48 [] = .ok (.setsec 0#8 60#8) ∧
    decodeCommand 0x34010000000F#48 [] = .ok (.setmin 1#8 15#8) ∧
    decodeCommand 0x350000000018#48 [] = .ok (.sethour 0#8 24#8) ∧
    decodeCommand 0x36000000001D#48 [] = .ok (.setday 0#8 29#8) ∧
    decodeCommand 0x37000000000D#48 [] = .ok (.setmon 0#8 13#8) ∧
    decodeCommand 0x380100000018#48 [] = .ok (.setyear 1#8 24#8) ∧
    decodeCommand 0x390000000000#48 [] = .ok .setalm ∧
    decodeCommand 0x3A0000000013#48 [] = .ok (.armalm 3#4) ∧
    decodeCommand 0x3B0200000000#48 [] = .ok (.rdsnap 2#8) ∧
    decodeCommand 0x3C0000000000#48 [] = .ok .rdstat := by decide

/-- Ignored fields and unused high bits (R103 b); unlisted opcodes (V76). -/
theorem test_decode_ignored :
    decodeCommand 0x04FFFFFFFFFF#48 (bs [1]) = .ok .verify ∧
    decodeCommand 0x3300FFFFFF05#48 [] = .ok (.setsec 0#8 5#8) ∧
    decodeCommand 0xFF0000000000#48 [] = .error (.illegalOp 0xFF#8) ∧
    decodeCommand 0x080000000000#48 [] = .error (.illegalOp 0x08#8) ∧
    decodeCommand 0x3D0000000000#48 [] = .error (.illegalOp 0x3D#8) := by decide

/-- Frames of V4, V7 (both forms), V20, V49. -/
theorem test_decode_wire :
    decodeFrame false .req03 (bs [1, 3, 0, 0, 0, 2, 0xC4, 0x0B]) =
      .ok (.req03 1#8 0#16 2#16 0xC4#8 0x0B#8) ∧
    decodeFrame false .req16 (bs [1, 0x10, 0, 0x10, 0, 1, 0x12, 0x34, 0x0D, 0x72]) =
      .ok (.req16 1#8 0x10#16 1#16 none (bs [0x12, 0x34]) 0x0D#8 0x72#8) ∧
    decodeFrame true .req16 (bs [1, 0x10, 0, 0x10, 0, 1, 2, 0x12, 0x34, 0xA9, 0xB7]) =
      .ok (.req16 1#8 0x10#16 1#16 (some 2#8) (bs [0x12, 0x34]) 0xA9#8 0xB7#8) ∧
    decodeFrame false .rsp03 (bs [1, 3, 4, 0, 0, 0x80, 0x3F, 0xDB, 0xE3]) =
      .ok (.rsp03 1#8 4#8 (bs [0, 0, 0x80, 0x3F]) 0xDB#8 0xE3#8) ∧
    decodeFrame false .rsp16 (bs [1, 0x10, 0, 0x10, 0, 1, 0, 0x0C]) =
      .ok (.rsp16 (bs [1, 0x10, 0, 0x10, 0, 1]) 0#8 0x0C#8) ∧
    decodeFrame false .req03 (bs [1, 0x10, 0, 0, 0, 2, 0xC4, 0x0B]) = .error (.functionCode 0x10#8) ∧
    decodeFrame false .rsp16 (bs [1]) = .error .frameLength := by decide

/-- R112's example of an encoding. -/
theorem test_encode : encode (.bldrd 1#8 0#16 2#16) = .command 0x010100000002#48 [] := by decide

/-- The fixed definitions evaluate, on words of the table with the default parameters. -/
theorem test_table_words :
    decodeTableWord 48 0x3A0000000013 = some (.armalm 3#4) ∧
    decodeTableWord 48 0x3D0000000000 = none ∧
    decodeTableWord 64 0x010300000002C40B = some (.req03 1#8 0#16 2#16 0xC4#8 0x0B#8) ∧
    decodeTableWord 16 0x0110 = some (.req16 1#8 0#16 0#16 none [] 0#8 0#8) ∧
    decodeTableWord 16 0x0103 = some (.rsp03 1#8 0#8 [] 0#8 0#8) ∧
    decodeTableWord 16 0x0000 = some (.rsp16 (bs [0, 0, 0, 0, 0, 0]) 0#8 0#8) := by decide +kernel

theorem test_fetch_bldrd :
    see resp (step (State.reset.withFetchWord 48 0x01F712340001)) =
      some (.ok, false, 8, bs [0xF7, 3, 0x12, 0x34, 0, 1, 0xD4, 0x2A]) := by decide +kernel
theorem test_fetch_illegal :
    see resp (step (State.reset.withFetchWord 48 0xFF0000000000)) = some (.illegalOp, false, 0, []) := by rfl
theorem test_fetch_req03 :
    see (fun t => t.tx) (step (State.reset.withFetchWord 64 0x010300000002C40B)) =
      some (bs [1, 3, 0, 0, 0, 2, 0xC4, 0x0B]) := by rfl

/-! ## U1 FrameCodec -/

theorem test_bldrd :
    see resp (exec (.bldrd 1#8 0#16 10#16) s0) =
      some (.ok, false, 8, bs [1, 3, 0, 0, 0, 10, 0xC5, 0xCD]) := by decide +kernel -- V3
theorem test_bldwr :
    see resp (exec (.bldwr 0x11#8 1#16 (bs [0, 10, 1, 2])) s0) =
      some (.ok, false, 12, bs [0x11, 0x10, 0, 1, 0, 2, 0, 10, 1, 2, 0x24, 0xC4]) := by decide +kernel -- V8
theorem test_bldwr_byte_count :
    see resp (exec (.bldwr 1#8 0x10#16 (bs [0x12, 0x34])) { s0 with params := { ex with wrByteCount := true } }) =
      some (.ok, false, 11, bs [1, 0x10, 0, 0x10, 0, 1, 2, 0x12, 0x34, 0xA9, 0xB7]) := by decide +kernel -- V7
theorem test_seal : see resp (exec (.seal (bs [1])) s0) = some (.ok, false, 3, bs [1, 0x7E, 0x80]) := by
  decide +kernel -- V10
theorem test_seal_empty :
    see (fun t => (resp t, t.fbk, t.fblen)) (exec (.seal []) s0) =
      some ((.ok, false, 2, bs [0xFF, 0xFF]), .good, 2) := by decide +kernel -- V10
theorem test_verify :
    see (fun t => (resp t, t.fbk)) (exec .verify (buffer .raw (bs [1, 3, 0, 0, 0, 10, 0xC5, 0xCC]))) =
      some ((.ok, false, 0, []), .bad) := by decide +kernel -- V11
theorem test_verify_empty : see resp (exec .verify s0) = some (.notValid, false, 0, []) := by decide -- V12
theorem test_ldfb :
    see (fun t => (resp t, t.fblen, t.fbk, t.fbBytes 0 3)) (exec (.ldfb (bs [1, 2, 3])) s0) =
      some ((.ok, false, 3, []), 3, .raw, bs [1, 2, 3]) := by decide
theorem test_rdfb :
    see resp (exec .rdfb (buffer .bad (bs [1, 2, 3]))) = some (.ok, false, 3, bs [1, 2, 3]) := by decide -- R143
theorem test_rdfb_unspecified :
    see resp (exec .rdfb (buffer .unspec [])) = some (.notValid, false, 0, []) := by decide
theorem test_crc16 :
    see resp (exec (.crc16 (bs [0x31, 0x32, 0x33, 0x34, 0x35, 0x36, 0x37, 0x38, 0x39])) s0) =
      some (.ok, false, 0x4B37, []) := by decide +kernel -- V2
theorem test_crc16_empty : see resp (exec (.crc16 []) s0) = some (.ok, false, 0xFFFF, []) := by decide -- V1

/-! ## U2 Transcoder -/

/-- The buffer of V20. -/
def v20 : State := buffer .good (bs [1, 3, 4, 0, 0, 0x80, 0x3F, 0xDB, 0xE3])

theorem test_decf32s : see resp (exec (.decf32s 0#16) v20) = some (.ok, false, 0x3F800000, []) := by decide +kernel
theorem test_decf32s_as_received :
    see resp (exec (.decf32s 0#16) { v20 with params := { ex with f32Perm := ⟨0, 1, 2, 3⟩ } }) =
      some (.ok, false, 0x0000803F, []) := by decide +kernel
theorem test_deci32 : see resp (exec (.deci32 0#16) v20) = some (.ok, false, 0x0000803F, []) := by decide +kernel
theorem test_deci32_large_offset :
    see resp (exec (.deci32 0xFFFF#16) v20) = some (.badArg, false, 0, []) := by decide +kernel -- V26
theorem test_decu16 : see resp (exec (.decu16 1#16) v20) = some (.ok, false, 0x80, []) := by decide +kernel
theorem test_decu16_checksum : see resp (exec (.decu16 3#16) v20) = some (.badArg, false, 0, []) := by decide +kernel
theorem test_decstr :
    see resp (exec (.decstr 8#8 0#16)
      (buffer .good (bs [1, 3, 8, 0x41, 0x42, 0, 0x43, 0x44, 0x45, 0x46, 0x47, 0, 0x97]))) =
      some (.ok, false, 2, bs [0x41, 0x42, 0, 0x43, 0x44, 0x45, 0x46, 0x47]) := by decide +kernel -- V24
theorem test_decstr_zero_width :
    see resp (exec (.decstr 0#8 0#16) s0) = some (.badArg, false, 0, []) := by decide
theorem test_decbcd6 :
    see resp (exec (.decbcd6 0#16)
      (buffer .good (bs [1, 3, 6, 8, 0x1A, 0x31, 0x23, 0x59, 0x58, 0xBD, 0x63]))) =
      some (.ok, false, 0, bs [8, 0x1A, 0x31, 0x23, 0x59, 0x58]) := by decide +kernel -- V25
theorem test_decbcd6_not_good :
    see resp (exec (.decbcd6 0#16) (buffer .raw (bs [1]))) = some (.notValid, false, 0, []) := by decide -- V27

/-! ## U3 ModbusClient -/

/-- RDHOLD 1, 0x0000, 2 before its step `k`. -/
def readAt (k : Nat) (s : State) : State := at' 0x200100000002#48 [] k s

theorem test_rdhold_too_many :
    see (fun t => (resp t, t.tx)) (exec (.rdhold 1#8 0#16 126#16) s0) =
      some ((.badArg, false, 0, []), []) := by decide -- V48
theorem test_rdhold_check :
    see (fun t => (resp t, t.fbk, t.fblen)) (exec (.rdhold 1#8 0#16 2#16)
      (readAt 5 { buffer .unspec (bs [2, 3, 4, 0, 0, 0x80, 0x3F, 0xE8, 0xE3]) with explen := 9, idx := 9 })) =
      some ((.ok, false, 4, bs [0, 0, 0x80, 0x3F]), .good, 9) := by decide +kernel -- V45
theorem test_wrmult_build :
    see (fun t => (t.fbBytes 0 10, t.fblen, t.seq)) (exec (.wrmult 1#8 0x10#16 (bs [0x12, 0x34]))
      (at' 0x210100100000#48 (bs [0x12, 0x34]) 1 s0)) =
      some (bs [1, 0x10, 0, 0x10, 0, 1, 0x12, 0x34, 0x0D, 0x72], 10,
        .busy 0x210100100000#48 (bs [0x12, 0x34]) 2) := by decide +kernel -- V49
theorem test_wrmult_odd :
    see resp (exec (.wrmult 1#8 0x10#16 (bs [0x12])) s0) = some (.badArg, false, 0, []) := by decide -- V50
theorem test_unlock_build :
    see (fun t => t.fbBytes 0 10) (exec .unlock (at' 0x220000000000#48 [] 1 s0)) =
      some (bs [1, 0x10, 1, 0, 0, 1, 0x12, 0x34, 0xCD, 0x60]) := by decide +kernel -- V51
theorem test_unlock_last_poll :
    see (fun t => (resp t, t.fbk, t.rx)) (exec .unlock
      (at' 0x220000000000#48 [] 4 { buffer .unspec [] with explen := 8, pollcnt := 1, rx := [none] })) =
      some ((.timeout, false, 0, []), .unspec, []) := by decide +kernel -- V50

/-! ## U4 ClockKeeper -/

/-- The time of V67: 2008-12-31 23:59:59, weekday 3, second half. -/
def v67 : State := { s0 with rtcw := ⟨0x5959#16, 0x0323#16, 0x1231#16, 0x0008#16⟩, half := true }

/-- A snapshot from numerals, in field order. -/
def snap (a b c d e f g : Nat) : Snap :=
  ⟨BitVec.ofNat 8 a, BitVec.ofNat 8 b, BitVec.ofNat 8 c, BitVec.ofNat 8 d, BitVec.ofNat 8 e,
    BitVec.ofNat 8 f, BitVec.ofNat 8 g⟩

theorem test_ckread_field :
    see (fun t => (t.pri, t.seq)) (exec .ckread (at' 0x300000000000#48 [] 4 v67)) =
      some (snap 0 0 0 3 1 1 0, .busy 0x300000000000#48 [] 5) := by decide
theorem test_ckread_torn :
    see resp (exec .ckread (at' 0x300000000000#48 [] 14
      { v67 with pri := snap 0x59 0x59 0x23 3 0x31 0x12 8, chk := snap 0x59 0x59 0x23 3 0x31 0x12 9
                 rtcw := ⟨0x0000#16, 0x0400#16, 0x0101#16, 0x0009#16⟩ })) =
      some (.tornRead, false, 0, []) := by decide -- V68
theorem test_ckcommit_weekday :
    see (fun t => (t.pri, t.irqinh)) (exec .ckcommit
      (at' 0x310000000000#48 [] 1 { v67 with pri := snap 0x30 0x15 0x10 0 0x15 6 0x24 })) =
      some (snap 0x30 0x15 0x10 6 0x15 6 0x24, true) := by decide +kernel -- R214
theorem test_ckcommit_word :
    see (fun t => t.rtcw) (exec .ckcommit
      (at' 0x310000000000#48 [] 8 { v67 with pri := snap 0x30 0x15 0x10 6 0x15 6 0x24, wren := true })) =
      some ⟨0x5959#16, 0x0610#16, 0x1231#16, 0x0008#16⟩ := by decide -- V70
theorem test_wkday : see resp (exec (.wkday 99#8 12#8 31#8) s0) = some (.ok, false, 4, []) := by decide -- V66
theorem test_wkday_leap : see resp (exec (.wkday 0#8 2#8 29#8) s0) = some (.ok, false, 2, []) := by decide
theorem test_setsec :
    see (fun t => (resp t, t.pri.sec)) (exec (.setsec 0#8 59#8) s0) =
      some ((.ok, false, 0x593B, []), 0x59#8) := by decide -- V60
theorem test_setmin :
    see (fun t => (resp t, t.alm.min, t.pri)) (exec (.setmin 1#8 15#8) s0) =
      some ((.ok, false, 0x150F, []), 0x15#8, s0.pri) := by decide -- R223
theorem test_sethour :
    see (fun t => (resp t, t.pri.hour)) (exec (.sethour 0#8 24#8) s0) =
      some ((.ok, true, 0, []), 0x00#8) := by decide -- S6
theorem test_setmon :
    see (fun t => (resp t, t.pri.month)) (exec (.setmon 0#8 0#8) s0) =
      some ((.ok, true, 0x120C, []), 0x12#8) := by decide -- S7
theorem test_setday_leap :
    see resp (exec (.setday 0#8 29#8) { s0 with pri := snap 0 0 0 0 1 2 8 }) =
      some (.ok, false, 0x291D, []) := by decide -- S9
theorem test_setday_last :
    see resp (exec (.setday 0#8 0#8) { s0 with pri := snap 0 0 0 0 1 4 0x24 }) =
      some (.ok, true, 0x301E, []) := by decide -- V62
theorem test_setyear_adjusts :
    see (fun t => (resp t, t.pri)) (exec (.setyear 0#8 99#8) { s0 with pri := snap 0 0 0 0 0x29 2 8 }) =
      some ((.ok, true, 0x19963, []), snap 0 0 0 0 1 2 0x99) := by decide -- V64
theorem test_setyear_wraps :
    see (fun t => (resp t, t.pri)) (exec (.setyear 0#8 100#8) { s0 with pri := snap 0 0 0 0 0x29 2 8 }) =
      some ((.ok, true, 0, []), snap 0 0 0 0 0x29 2 0) := by decide -- V64
theorem test_setalm_disables :
    see (fun t => t.alcfg) (exec .setalm (at' 0x390000000000#48 [] 1 { s0 with alcfg := 0x86#8 })) =
      some 0x06#8 := by decide -- V72
theorem test_setalm_weekday :
    see (fun t => t.alrmw.w1) (exec .setalm (at' 0x390000000000#48 [] 4
      { s0 with alm := ⟨0x00#8, 0x30#8, 0x06#8, 0x15#8, 0x06#8, 0x24#8⟩ })) = some 0x0606#16 := by decide +kernel -- V72
theorem test_armalm_mask :
    see (fun t => t.alcfg) (exec (.armalm 3#4) (at' 0x3A0000000013#48 [] 1 { s0 with alcfg := 0x86#8 })) =
      some 0x83#8 := by decide
theorem test_armalm_refuses :
    see (fun t => (resp t, t.alcfg)) (exec (.armalm 10#4) (at' 0x3A000000000A#48 [] 1 { s0 with alcfg := 0x86#8 })) =
      some ((.badArg, false, 0, []), 0x86#8) := by decide -- V73
theorem test_rdsnap : see resp (exec (.rdsnap 1#8) s0) = some (.ok, false, 6, bs [0, 0, 0, 1, 1, 0]) := by decide -- V74
theorem test_rdsnap_selector : see resp (exec (.rdsnap 3#8) s0) = some (.badArg, false, 0, []) := by decide
theorem test_rdstat :
    see resp (exec .rdstat { buffer .good (bs [1, 3, 0, 0, 0, 2, 0xC4, 0x0B]) with alcfg := 0x83#8 }) =
      some (.ok, false, 0x00080072, []) := by decide +kernel -- R238
theorem test_rdstat_unspecified :
    see resp (exec .rdstat { buffer .unspec (bs [1]) with half := true, keyst := 2#2, almif := true }) =
      some (.ok, false, 0x240C, []) := by decide +kernel

/-! ## Wire formats and events -/

theorem test_req03 :
    see (fun t => t.tx) (exec (.req03 1#8 0#16 2#16 0xC4#8 0x0B#8) s0) =
      some (bs [1, 3, 0, 0, 0, 2, 0xC4, 0x0B]) := by decide
theorem test_req16 :
    see (fun t => t.tx) (exec (.req16 1#8 0x10#16 1#16 none (bs [0x12, 0x34]) 0x0D#8 0x72#8) s0) =
      some (bs [1, 0x10, 0, 0x10, 0, 1, 0x12, 0x34, 0x0D, 0x72]) := by decide
theorem test_rsp03 :
    see (fun t => t.rx) (exec (.rsp03 1#8 2#8 (bs [0x12, 0x34]) 0xB5#8 0x33#8) { s0 with rx := [none] }) =
      some (none :: (bs [1, 3, 2, 0x12, 0x34, 0xB5, 0x33]).map some) := by decide -- V23's frame
theorem test_rsp16 :
    see (fun t => t.rx) (exec (.rsp16 (bs [1, 0x10, 0, 0x10, 0, 1]) 0#8 0x0C#8) s0) =
      some ((bs [1, 0x10, 0, 0x10, 0, 1, 0, 0x0C]).map some) := by decide

/-- An error reply (code 0x83) reaches a read in progress like any other bytes (R110). -/
theorem test_wire_error_reply :
    see (fun t => (t.rx, t.tx, t.seq))
      (step { readAt 4 s0 with agenda := [.input (.wire .rsp03 (bs [1, 0x83, 2, 0xC0, 0xF1]))] }) =
      some ((bs [1, 0x83, 2, 0xC0, 0xF1]).map some, [], (readAt 4 s0).seq) := by decide +kernel
theorem test_wire_cut_short :
    see (fun t => (t.rx, t.tx)) (step { s0 with agenda := [.input (.wire .req16 (bs [1]))] }) =
      some ([], bs [1]) := by decide +kernel

/-- The step of an UNSPEC buffer starts a fresh epoch of unspecified bytes, of another none (R43). -/
theorem test_unspecified_anew :
    see (fun t => t.freeCount) (step { buffer .unspec [] with freeCount := 6 }) = some 7 ∧
    see (fun t => (t.freeCount, t.fblen)) (step { buffer .raw (bs [1]) with freeCount := 6 }) =
      some (6, 1) := by decide +kernel

theorem test_htick_year_end :
    advanceWords ⟨0x5959#16, 0x0323#16, 0x1231#16, 0x0099#16⟩ =
      ⟨0x0000#16, 0x0400#16, 0x0101#16, 0x0000#16⟩ := by decide -- V82
theorem test_htick_leap_day :
    advanceWords ⟨0x5959#16, 0x0323#16, 0x0228#16, 0x0024#16⟩ =
      ⟨0x0000#16, 0x0400#16, 0x0229#16, 0x0024#16⟩ := by decide -- V82
theorem test_htick_no_such_date :
    advanceWords ⟨0x5959#16, 0x0223#16, 0x0231#16, 0x0009#16⟩ =
      ⟨0x0000#16, 0x0300#16, 0x0301#16, 0x0009#16⟩ := by decide -- V83

/-- The start of V84: the alarm is about to fire. -/
def v84 : State :=
  { s0 with
    rtcw := ⟨0x1559#16, 0x0610#16, 0x0615#16, 0x0024#16⟩
    half := true
    alrmw := ⟨0x3000#16, 0x0606#16, 0x0615#16, 0x0024#16⟩
    alcfg := 0x83#8 }

theorem test_htick_fires :
    see (fun t => (t.rtcw.w0, t.almif, t.alcfg)) (step { v84 with agenda := [.htick] }) =
      some (0x1600#16, true, 0x03#8) := by decide +kernel -- V84
theorem test_almack :
    see (fun t => (t.almif, t.alcfg)) (step { v84 with almif := true, alcfg := 0x03#8, agenda := [.almack] }) =
      some (false, 0x83#8) := by decide -- V84
theorem test_almack_inhibited :
    see (fun t => (t.almif, t.alcfg))
      (step { v84 with almif := true, alcfg := 0x03#8, irqinh := true, agenda := [.almack] }) =
      some (true, 0x03#8) := by decide -- V87

/-- The host's mode machine: an alarm during a session is dropped when it ends (S14, R292). -/
theorem test_host_session :
    hostStep .alarmFirst (hostStep .alarmFirst ⟨.interactive, false, false⟩ .alarmFired) .cancelByte =
      ⟨.idle, false, false⟩ := by decide

/-- An alarm during Sampling leads to another Sampling (log 30); a byte flag set during a session to
another session (log 31); both flags start clear (log 32). -/
theorem test_host_flags :
    hostStep .byteFirst (hostStep .byteFirst (hostStep .byteFirst
      (hostStep .byteFirst (hostStep .byteFirst hostStart .alarmFired) .look) .alarmFired) .completion)
      .look = ⟨.sampling, false, false⟩ ∧
    hostStep .alarmFirst (hostStep .alarmFirst (hostStep .alarmFirst ⟨.interactive, false, false⟩
      .byteReceived) .commandResume) .look = ⟨.interactive, false, false⟩ ∧
    hostStep .alarmFirst hostStart .look = hostStart := by decide

theorem test_memory_form : Memory.wf 256 State.reset.fb ∧ Memory.wf 256 v20.fb := by decide

/-! ## Witnesses: the hypotheses of each obligation hold together, at the boundaries of each clause -/

/-- The byte-count byte, in a buffer larger than 255 bytes. -/
def exBc : Params := { ex with wrByteCount := true, fbSize := 300 }

/-- The smallest buffer R9 allows. -/
def exSmall : Params := { ex with fbSize := 8, unlockKey := [] }

/-- Payloads and frames by length. -/
def zeros (n : Nat) : List Byte := List.replicate n 0x00#8

/-- V40's answer to RDHOLD 1, 0x0000, 2. -/
def answer : List Byte := bs [1, 3, 4, 0, 0, 0x80, 0x3F, 0xDB, 0xE3]

/-- V49's answer to WRMULT. -/
def answer16 : List Byte := bs [1, 0x10, 0, 0x10, 0, 1, 0, 0x0C]

theorem witness_CrcHasTheStatedProperties :
    1 < (frame []).length ∧ 7 < 8 ∧ 2 ≤ (frame []).length := by decide
theorem witness_VerifyComparesTheTrailingChecksum :
    ([] : List Byte).length < 2 ∧ (bs [1]).length < 2 := by decide
theorem witness_BldrdBuildsReadRequest :
    8 ≤ s0.params.fbSize ∧ 8 ≤ (State.resetOf exSmall).params.fbSize := by decide
theorem witness_BldwrBuildsOrRefuses_refused :
    (bs [1]).length % 2 ≠ 0 ∧ ex.fbSize < 8 + 0 + (zeros 250).length ∧
    (exBc.wrByteCount = true ∧ 255 < (zeros 256).length) := by decide +kernel
theorem witness_BldwrBuildsOrRefuses_built :
    ¬ ((zeros 248).length % 2 ≠ 0 ∨ ex.fbSize < 8 + 0 + (zeros 248).length ∨
      (0 = 1 ∧ 255 < (zeros 248).length)) ∧
    ¬ ((zeros 254).length % 2 ≠ 0 ∨ exBc.fbSize < 8 + 1 + (zeros 254).length ∨
      (1 = 1 ∧ 255 < (zeros 254).length)) := by decide +kernel
theorem witness_SealAppendsChecksum :
    s0.params.fbSize < (zeros 255).length + 2 ∧ (zeros 254).length + 2 ≤ s0.params.fbSize := by decide +kernel
theorem witness_VerifyTagsTheBuffer :
    s0.fbk = .empty ∧ (buffer .unspec []).fbk = .unspec ∧
    v20.fbk ≠ .empty ∧ v20.fbk ≠ .unspec ∧ v20.fblen ≤ v20.params.fbSize ∧
    verifyFrame (v20.fbBytes 0 v20.fblen) = true ∧
    (let s := buffer .raw (zeros 256)
     s.fbk ≠ .empty ∧ s.fbk ≠ .unspec ∧ s.fblen ≤ s.params.fbSize) := by decide +kernel
theorem witness_LdfbLoadsUnchecked : (zeros 256).length ≤ s0.params.fbSize := by decide +kernel
theorem witness_RdfbReturnsTheBuffer :
    (buffer .unspec []).fbk = .unspec ∧ s0.fbk ≠ .unspec ∧ s0.fblen ≤ s0.params.fbSize ∧
    (let s := buffer .bad (zeros 256)
     s.fbk ≠ .unspec ∧ s.fblen ≤ s.params.fbSize) := by decide +kernel
theorem witness_BuiltFramesAreWireFrames :
    writeRequestFits ex (zeros 248) = true ∧ (zeros 248).length < 131072 ∧
    writeRequestFits exBc (zeros 254) = true := by decide +kernel
theorem witness_NumberDecodersUseTheirByteOrders :
    v20.fbk = .good ∧ v20.fblen ≤ v20.params.fbSize ∧ 5 + (0#16).toNat + 4 ≤ v20.fblen ∧
    5 + (2#16).toNat + 2 ≤ v20.fblen ∧ v20.params.f32Perm = ⟨3, 2, 1, 0⟩ := by decide +kernel
theorem witness_ByteDecodersReturnRawBytes :
    v20.fbk = .good ∧ v20.fblen ≤ v20.params.fbSize ∧ 4#8 ≠ 0#8 ∧
    5 + (0#16).toNat + (4#8).toNat ≤ v20.fblen ∧
    (let s := buffer .good (bs [1, 3, 6, 8, 0x12, 0x31, 0x23, 0x59, 0x58, 0x5C, 0xA2])
     s.fbk = .good ∧ s.fblen ≤ s.params.fbSize ∧ 5 + (0#16).toNat + 6 ≤ s.fblen) := by decide +kernel
theorem witness_DecodersRefuseOutsideTheWindow :
    s0.fbk ≠ .good ∧ 1#8 ≠ 0#8 ∧ v20.fbk = .good ∧
    v20.fblen < 5 + (1#16).toNat + 4 ∧ v20.fblen < 5 + (3#16).toNat + 2 ∧
    v20.fblen < 5 + (0#16).toNat + 6 ∧ v20.fblen < 5 + (0xFFFF#16).toNat + 4 ∧
    (5#8 ≠ 0#8 ∧ v20.fblen < 5 + (0#16).toNat + (5#8).toNat) ∧
    (buffer .good (bs [1, 2, 3, 4])).fblen < 5 := by decide +kernel
theorem witness_ClientChecksOperandsFirst :
    s0.seq = .idle ∧ s0.params.keyOk = true ∧ s0.params.fbSize < 5 + 2 * (126#16).toNat ∧
    5 + 2 * (125#16).toNat ≤ s0.params.fbSize := by decide +kernel

/-- RDHOLD 1, 0x0000, 2 is a transaction of 8 bytes awaiting 9. -/
theorem witness_transaction :
    transaction ex (.rdhold 1#8 0#16 2#16) = some (readRequest 1#8 0#16 2#16, 9) ∧
    transaction ex .unlock = some (writeRequest false 1#8 0x0100#16 (bs [0x12, 0x34]), 8) ∧
    transaction ex (.wrmult 1#8 0x10#16 (bs [0x12, 0x34])) =
      some (writeRequest false 1#8 0x10#16 (bs [0x12, 0x34]), 8) := by decide +kernel

/-- RDHOLD 1, 0x0000, 2 sending byte `n` of its request. -/
def sending (n : Nat) : State := { readAt 2 (buffer .good (readRequest 1#8 0#16 2#16)) with idx := n }

/-- RDHOLD 1, 0x0000, 2 awaiting byte `n` of its answer, with a budget of `polls` and these next
answers. -/
def awaiting (n polls : Nat) (rx : List (Option Byte)) : State :=
  { readAt 4 (buffer .unspec (answer.take n)) with idx := n, explen := 9, pollcnt := polls, rx := rx }

theorem witness_TransactionBuildsAndSends :
    (readAt 1 s0).seq = .busy 0x200100000002#48 [] 1 ∧
    (readRequest 1#8 0#16 2#16).length ≤ (readAt 1 s0).params.fbSize ∧
    (sending 0).seq = .busy 0x200100000002#48 [] 2 ∧ (sending 0).idx < (sending 0).fblen ∧
    (sending 7).idx < (sending 7).fblen ∧ (sending 7).fblen ≤ (sending 7).params.fbSize := by decide +kernel
theorem witness_ReceivePollsUnderABudget :
    (readAt 3 s0).seq = .busy 0x200100000002#48 [] 3 ∧
    (awaiting 8 3 [some 0xE3#8]).seq = .busy 0x200100000002#48 [] 4 ∧
    (awaiting 8 3 [some 0xE3#8]).rx = some 0xE3#8 :: [] ∧ (awaiting 8 3 []).rx = [] ∧
    (awaiting 8 3 [some 0xE3#8]).rxNext = some 0xE3#8 ∧
    (Memory.get? (awaiting 8 3 [some 0xE3#8]).fb 7).isSome = true ∧
    (awaiting 8 3 [some 0xE3#8]).idx < (awaiting 8 3 [some 0xE3#8]).params.fbSize ∧
    (awaiting 8 3 [some 0xE3#8]).idx + 1 = (awaiting 8 3 [some 0xE3#8]).explen ∧
    (awaiting 7 3 [some 0xDB#8]).idx + 1 ≠ (awaiting 7 3 [some 0xDB#8]).explen ∧
    (awaiting 0 2 [none]).rxNext = none ∧ 2 ≤ (awaiting 0 2 [none]).pollcnt ∧
    (awaiting 0 1 [none]).pollcnt = 1 ∧ (awaiting 0 1 [none]).fbk = .unspec := by decide +kernel

/-- RDHOLD 1, 0x0000, 2 with these nine bytes received, before the check. -/
def received (f : List Byte) : State := { readAt 5 (buffer .unspec f) with idx := 9, explen := 9 }

theorem witness_ReceiveChecksTheChecksum :
    (received answer).seq = .busy 0x200100000002#48 [] 5 ∧ (received answer).explen = 9 ∧ 5 ≤ 9 ∧
    9 ≤ (received answer).params.fbSize ∧
    verifyFrame ((received answer).fbBytes 0 9) = true ∧
    verifyFrame ((received (bs [1, 3, 4, 0, 0, 0x80, 0x3F, 0xDB, 0xE2])).fbBytes 0 9) = false ∧
    (let s := at' 0x220000000000#48 [] 5 { buffer .unspec answer16 with idx := 8, explen := 8 }
     s.explen = 8 ∧ 5 ≤ 8 ∧ 8 ≤ s.params.fbSize ∧ verifyFrame (s.fbBytes 0 8) = true) := by decide +kernel
theorem witness_RdholdCompletesWhenAnswered :
    s0.seq = .idle ∧ 8 ≤ s0.params.fbSize ∧ 5 + 2 * (2#16).toNat ≤ s0.params.fbSize ∧
    answer.length = 5 + 2 * (2#16).toNat ∧ verifyFrame answer = true ∧
    { s0 with rx := answer.map some }.rx = answer.map some ++ [] := by decide +kernel
theorem witness_WrmultAndUnlockCompleteWhenAnswered :
    s0.seq = .idle ∧ writeRequestFits s0.params (bs [0x12, 0x34]) = true ∧ 5 ≤ s0.params.wrRspLen ∧
    s0.params.wrRspLen ≤ s0.params.fbSize ∧ answer16.length = s0.params.wrRspLen ∧
    verifyFrame answer16 = true ∧ { s0 with rx := answer16.map some }.rx = answer16.map some ++ [] ∧
    s0.params.unlockSlave = 1#8 ∧ s0.params.unlockKey = bs [0x12, 0x34] := by decide +kernel
theorem witness_ReceptionIsBounded :
    (awaiting 0 3 [none, none, none]).seq = .busy 0x200100000002#48 [] 4 ∧
    1 ≤ (awaiting 0 3 [none, none, none]).pollcnt ∧
    (awaiting 0 3 [none, none, none]).idx < (awaiting 0 3 [none, none, none]).explen ∧
    (awaiting 0 3 [none, none, none]).explen ≤ (awaiting 0 3 [none, none, none]).params.fbSize ∧
    (awaiting 0 3 [none, none, none]).pollcnt ≤ (awaiting 0 3 [none, none, none]).params.pollBudget ∧
    (awaiting 0 3 [none, none, none]).rx =
      List.replicate (awaiting 0 3 [none, none, none]).pollcnt none ++ [] := by decide +kernel
theorem witness_CommandsAreHalfDuplex :
    isCommand (.rdhold 1#8 0#16 2#16) = true ∧
    (∃ t, exec (.rdhold 1#8 0#16 2#16) (sending 0) = .next t ∧ t.tx ≠ (sending 0).tx) ∧
    (∃ t, exec (.rdhold 1#8 0#16 2#16) (awaiting 0 3 [none]) = .next t ∧
      t.rxCount ≠ (awaiting 0 3 [none]).rxCount) :=
  ⟨rfl, ⟨_, rfl, by decide +kernel⟩, ⟨_, rfl, by decide +kernel⟩⟩
theorem witness_TransactionsIgnoreTheClock :
    (transaction (sending 0).params (.rdhold 1#8 0#16 2#16)).isSome = true ∧
    ∃ t, exec (.rdhold 1#8 0#16 2#16) (sending 0) = .next t := ⟨rfl, _, rfl⟩

/-- CKREAD before its step `k`, at the time of V67. -/
def readingAt (k : Nat) : State := at' 0x300000000000#48 [] k v67

theorem witness_CkreadStepByStep :
    v67.seq = .idle ∧ (readingAt 1).seq = .busy 0x300000000000#48 [] 1 ∧
    (readingAt 14).seq = .busy 0x300000000000#48 [] 14 := by decide
theorem witness_CkreadUndisturbedSucceeds : v67.seq = .idle := by decide

/-- V69: the second edge falls before step 9 of the read. -/
def v69sched : List Event := List.replicate 7 .micro ++ .htick :: List.replicate 6 .micro

/-- The start of V69. -/
def v69 : State :=
  { readingAt 1 with
    rtcw := ⟨0x0010#16, 0x0312#16, 0x0615#16, 0x0024#16⟩
    agenda := .micro :: v69sched }

theorem witness_CkreadWithOneEdgeIsSound :
    v69.seq = .busy 0x300000000000#48 [] 1 ∧ decodeCommand 0x300000000000#48 [] = .ok .ckread ∧
    v69.agenda = .micro :: v69sched ∧ (∀ e ∈ v69sched, e = .micro ∨ e = .htick ∨ e = .almack) ∧
    v69sched.count .micro = 13 ∧ (v69sched.count .htick + (if v69.half then 1 else 0)) / 2 ≤ 1 ∧
    see (fun t => t.st) (stepRun (v69sched.length + 1) v69) = some .ok ∧
    v69sched = List.replicate 6 .micro ++ .micro :: (.htick :: List.replicate 6 .micro) ∧
    (List.replicate 6 Event.micro).count .micro = 6 := by decide +kernel

/-- CKCOMMIT before its step `k`, with the lock as every run has it there. -/
def committing (k : Nat) : State :=
  { at' 0x310000000000#48 [] k v67 with
    pri := snap 0x30 0x15 0x10 6 0x15 6 0x24
    keyst := if k = 3 then 1#2 else if k = 4 then 2#2 else 0#2
    wren := decide (5 ≤ k)
    irqinh := decide (2 ≤ k ∧ k ≤ 5) }

theorem witness_CommitStepByStep :
    v67.seq = .idle ∧ (committing 1).seq = .busy 0x310000000000#48 [] 1 ∧
    (committing 2).keyst = 0#2 ∧ (committing 3).keyst = 1#2 ∧ (committing 4).keyst = 2#2 ∧
    (committing 9).wren = true ∧ (committing 10).seq = .busy 0x310000000000#48 [] 10 := by decide
theorem witness_CommitUndisturbedSetsTheClock : v67.seq = .idle ∧ v67.lockClosed :=
  ⟨rfl, rfl, rfl, rfl⟩

/-- SETALM before its step `k`. -/
def loading (k : Nat) : State := at' 0x390000000000#48 [] k v84

/-- ARMALM Minute before its step `k`. -/
def arming (k : Nat) : State := at' 0x3A0000000003#48 [] k s0

theorem witness_OnlyTheirOwnersWriteTheClock :
    (∃ t, step { v84 with agenda := [.htick] } = .next t ∧ t.rtcw ≠ v84.rtcw ∧ t.almif ≠ v84.almif) ∧
    (∃ t, step (committing 4) = .next t ∧ (committing 4).agenda.head? ≠ some .reset ∧
      t.wren ≠ (committing 4).wren) ∧
    (∃ t, step { v84 with almif := true, agenda := [.almack] } = .next t ∧ t.almif = false) ∧
    (∃ t, step (loading 3) = .next t ∧ t.alrmw ≠ (loading 2).alrmw) ∧
    (∃ t, step (arming 2) = .next t ∧ t.alcfg ≠ (arming 2).alcfg) :=
  ⟨⟨_, rfl, by decide +kernel⟩, ⟨_, rfl, by decide +kernel⟩, ⟨_, rfl, by decide +kernel⟩,
    ⟨_, rfl, by decide +kernel⟩, ⟨_, rfl, by decide +kernel⟩⟩

theorem witness_WkdayComputesTheFormula :
    99 < (100#8).toNat ∧ (0#8).toNat < 1 ∧ 12 < (13#8).toNat ∧ 31 < (32#8).toNat ∧
    ¬ (99 < (99#8).toNat ∨ (12#8).toNat < 1 ∨ 12 < (12#8).toNat ∨ (31#8).toNat < 1 ∨
      31 < (31#8).toNat) := by decide
theorem witness_FieldSettersWrapAndStore : 1 < (2#8).toNat := by decide
theorem witness_SetdayWrapsAtTheMonthsEnd :
    snapValid s0.pri = true ∧ alarmValid s0.alm = true ∧ 1 < (2#8).toNat := by decide
theorem witness_SetyearRevalidatesTheDay : 1 < (2#8).toNat := by decide
theorem witness_DayAndYearSettersLeaveRealDates :
    (fun a => Instr.setday a 31#8) = (fun a => Instr.setday a 31#8) ∧
    snapValid (snap 0 0 0 0 0x31 2 8) = true ∧ alarmValid s0.alm = true :=
  ⟨rfl, by decide, by decide⟩
theorem witness_SetalmDisablesThenLoads :
    (loading 1).seq = .busy 0x390000000000#48 [] 1 ∧ (loading 5).seq = .busy 0x390000000000#48 [] 5 ∧
    v84.seq = .idle := by decide
theorem witness_ArmalmSetsMaskThenEnables :
    (arming 1).seq = .busy 0x3A0000000003#48 [] 1 ∧ (9#4).toNat ≤ 9 ∧ 9 < (10#4).toNat ∧
    (arming 2).seq = .busy 0x3A0000000003#48 [] 2 ∧ s0.seq = .idle := by decide
theorem witness_RdsnapReturnsTheSnapshot : 2 < (3#8).toNat := by decide

theorem witness_HtickTogglesAdvancesAndCompares :
    { v84 with agenda := [.htick] }.agenda = .htick :: [] := rfl
theorem witness_SecondEdgeAdvancesTheTime :
    wordsValid s0.rtcw = true ∧ secondOfDay (wordsSnap s0.rtcw) ≠ 86399 ∧
    wordsValid v67.rtcw = true ∧ secondOfDay (wordsSnap v67.rtcw) = 86399 ∧
    lastday 8 12 ≤ bcd2bin (wordsSnap v67.rtcw).day ∧ bcd2bin (wordsSnap v67.rtcw).month = 12 ∧
    (let w : ClockWords := ⟨0x5959#16, 0x0323#16, 0x0228#16, 0x0024#16⟩
     wordsValid w = true ∧ secondOfDay (wordsSnap w) = 86399 ∧ bcd2bin (wordsSnap w).day < lastday 24 2) ∧
    (let w : ClockWords := ⟨0x5959#16, 0x0223#16, 0x0430#16, 0x0024#16⟩
     wordsValid w = true ∧ lastday 24 4 ≤ bcd2bin (wordsSnap w).day ∧ bcd2bin (wordsSnap w).month < 12) := by
  decide +kernel
theorem witness_TickKeepsTheClockValidWithinTheCentury :
    clockValid (wordsSnap v67.rtcw) = true ∧
    ¬ (secondOfDay (wordsSnap v67.rtcw) = 86399 ∧ bcd2bin (wordsSnap v67.rtcw).day = 31 ∧
      bcd2bin (wordsSnap v67.rtcw).month = 12 ∧ bcd2bin (wordsSnap v67.rtcw).year = 99) := by decide +kernel
theorem witness_AlmackAcknowledgesAndRearms :
    { v84 with almif := true, agenda := [.almack] }.agenda = .almack :: [] := rfl
theorem witness_FailuresReturnNothing :
    isCommand (.rdsnap 3#8) = true ∧
    (∃ t, exec (.rdsnap 3#8) s0 = .next t ∧ t.seq = .idle ∧ t.st ≠ .ok) ∧
    (∃ t, exec (.setsec 0#8 60#8) s0 = .next t ∧ t.seq = .idle ∧ t.w = true) :=
  ⟨rfl, ⟨_, rfl, by decide⟩, ⟨_, rfl, by decide⟩⟩

/-- The buffer's invariant while a response is received, one poll before its last byte. -/
theorem witness_bufOk : (awaiting 8 1 [none]).bufOk := by
  unfold State.bufOk State.tagOk State.specified
  refine ⟨by decide +kernel, ?_⟩
  have fits : (readRequest 1#8 0#16 2#16).length ≤ 256 := by decide +kernel
  have stored : ∀ i, i < 8 → (Memory.get? (awaiting 8 1 [none]).fb i).isSome = true := by decide +kernel
  exact ⟨fits, by decide, by decide, rfl, rfl, by decide, stored, by decide, by decide⟩

/-- A frame with a wrong checksum, tagged BAD. -/
theorem witness_bufOk_bad : (buffer .bad (bs [1, 3, 0, 0, 0, 10, 0xC5, 0xCC])).bufOk := by
  unfold State.bufOk State.tagOk State.specified
  exact ⟨by decide +kernel, trivial⟩

theorem witness_UnspecifiedBytesNeverReachAResult :
    (awaiting 8 1 [none]).bufOk ∧
    (awaiting 8 1 [none]).running = some (.rdhold 1#8 0#16 2#16, 4) ∧
    ∃ t, exec (.rdhold 1#8 0#16 2#16) (awaiting 8 1 [none]) = .next t :=
  ⟨witness_bufOk, rfl, _, rfl⟩

theorem witness_DecodeOfEncodeIsIdentity :
    Instr.wf ex (.ldfb (zeros 256)) = true ∧ Instr.wf ex (.armalm 15#4) = true ∧
    Instr.wf ex (.req03 1#8 0#16 2#16 0xC4#8 0x0B#8) = true ∧
    Instr.wf { ex with wrByteCount := true }
      (.req16 1#8 0x10#16 1#16 (some 2#8) (bs [0x12, 0x34]) 0xA9#8 0xB7#8) = true ∧
    Instr.wf ex (.rsp03 1#8 4#8 (bs [0, 0, 0x80, 0x3F]) 0xDB#8 0xE3#8) = true ∧
    Instr.wf ex (.rsp16 (bs [1, 0x10, 0, 0x10, 0, 1]) 0#8 0x0C#8) = true := by decide +kernel
theorem witness_OpcodeMapIsTheTable :
    0x00#8 ∉ [0x01#8, 0x02#8, 0x03#8, 0x04#8, 0x05#8, 0x06#8, 0x07#8, 0x10#8, 0x11#8, 0x12#8, 0x13#8,
      0x14#8, 0x20#8, 0x21#8, 0x22#8, 0x30#8, 0x31#8, 0x32#8, 0x33#8, 0x34#8, 0x35#8, 0x36#8, 0x37#8,
      0x38#8, 0x39#8, 0x3A#8, 0x3B#8, 0x3C#8] := by decide

/-- An issue of CKREAD while the sequencer is as in `s`. -/
def issuing (cmd : CmdWord) (pl : List Byte) (s : State) : State :=
  { s with agenda := [.input (.command cmd pl)] }

theorem witness_StepRunsTheDecodedInstruction :
    decodeCommand 0x300000000000#48 (zeros 256) = .ok .ckread ∧
    (issuing 0x300000000000#48 (zeros 256) s0).agenda =
      .input (.command 0x300000000000#48 (zeros 256)) :: [] ∧
    (issuing 0x300000000000#48 (zeros 256) s0).seq = .idle ∧
    (zeros 256).length ≤ (issuing 0x300000000000#48 (zeros 256) s0).params.fbSize ∧
    (at' 0x300000000000#48 (zeros 256) 14 s0).seq = .busy 0x300000000000#48 (zeros 256) 14 ∧
    (readingAt 14).agenda = [] ∧ { readingAt 14 with agenda := [.micro] }.agenda = .micro :: [] ∧
    decodeFrame s0.params.wrByteCount .rsp03 answer =
      .ok (.rsp03 1#8 4#8 (bs [0, 0, 0x80, 0x3F]) 0xDB#8 0xE3#8) ∧
    { s0 with agenda := [.input (.wire .rsp03 answer)] }.agenda = .input (.wire .rsp03 answer) :: [] := by
  decide +kernel
theorem witness_IllegalOpEndsAtOnce :
    decodeCommand 0xFF0000000000#48 [] = .error (.illegalOp 0xFF#8) ∧
    (issuing 0xFF0000000000#48 [] s0).seq = .idle ∧
    (issuing 0xFF0000000000#48 [] s0).agenda = .input (.command 0xFF0000000000#48 []) :: [] := by decide
theorem witness_ResetGivesTheTableOfValues :
    { committing 5 with agenda := [.reset] }.agenda = .reset :: [] := rfl

theorem witness_StepKeepsMemoryCanonical :
    v20.memOk ∧ ∃ t, step (issuing 0x050000000000#48 (bs [1]) v20) = .next t :=
  ⟨by show Memory.wf _ _; decide +kernel, _, rfl⟩
theorem witness_StepKeepsClockFieldValid :
    v84.clockOk ∧ ∃ t, step { v84 with agenda := [.htick] } = .next t :=
  ⟨by unfold State.clockOk; decide +kernel, _, rfl⟩
theorem witness_StepKeepsAlcfgLegal :
    (arming 1).alcfgOk ∧ ∃ t, step (arming 1) = .next t :=
  ⟨by unfold State.alcfgOk; decide +kernel, _, rfl⟩
theorem witness_StepKeepsLockSequence :
    (committing 4).lockOk ∧ ∃ t, step (committing 4) = .next t :=
  ⟨⟨rfl, rfl, rfl⟩, _, rfl⟩
theorem witness_StepKeepsBufferTagTruthful :
    (awaiting 8 1 [none]).params.ok = true ∧ (awaiting 8 1 [none]).bufOk ∧
    ∃ t, step (awaiting 8 1 [none]) = .next t := ⟨by decide +kernel, witness_bufOk, _, rfl⟩
theorem witness_StepKeepsSequencerLegal :
    (committing 10).seqOk ∧ ∃ t, step (committing 10) = .next t :=
  ⟨by show 1 ≤ 10 ∧ 10 ≤ 10; decide, _, rfl⟩

theorem witness_ResetStateIsLegal : ex.ok = true ∧ exSmall.ok = true := by decide

/-- Every invariant holds in the middle of a reception, with a command waiting at the port. -/
theorem witness_LegalStatesNeverStop :
    (issuing 0x060000000000#48 (zeros 256) (awaiting 8 1 [none])).Inv ∧
    (issuing 0x060000000000#48 (zeros 256) (awaiting 8 1 [none])).inputOk := by
  refine ⟨⟨by decide +kernel, ?_, ?_, ?_, ⟨rfl, rfl, rfl⟩, witness_bufOk, ?_⟩, ?_⟩
  · show Memory.wf _ _
    decide +kernel
  · unfold State.clockOk
    decide +kernel
  · unfold State.alcfgOk
    decide +kernel
  · show 1 ≤ 4 ∧ 4 ≤ 5
    decide
  · show payloadFits _ (zeros 256) = true
    decide +kernel

/-- Bytes on the wire during a reception, of no format. -/
theorem witness_WireEventsCarryAnyBytes :
    { awaiting 8 1 [none] with agenda := [.input (.wire .rsp16 (bs [1]))] }.agenda =
      .input (.wire .rsp16 (bs [1])) :: [] ∧
    decodeFrame false .rsp16 (bs [1]) = .error .frameLength ∧
    decodeFrame false .req03 (bs [1, 0x10, 0, 0, 0, 2, 0xC4, 0x0B]) = .error (.functionCode 0x10#8) := by
  decide

end Sys2Proof.Tests
end

section
/-! The byte decoders DECSTR and DECBCD6 inside the payload window (R168, R170). -/

namespace Sys2Proof.Machine

/-! ### The string length (R168) -/

theorem strLen_le_length (bs : List Byte) : strLen bs ≤ bs.length := by
  induction bs with
  | nil => exact Nat.le_refl 0
  | cons b bs ih =>
    simp only [strLen, List.length_cons]
    split <;> omega

/-- Before the string's end stands no zero byte. -/
theorem ne_zero_of_lt_strLen {bs : List Byte} {j : Nat} {b : Byte} (hj : j < strLen bs)
    (hb : bs[j]? = some b) : b ≠ 0x00#8 := by
  induction bs generalizing j with
  | nil => cases hj
  | cons c cs ih =>
    simp only [strLen] at hj
    split at hj
    · cases hj
    · cases j with
      | zero =>
        cases hb
        assumption
      | succ j => exact ih (by omega) hb

/-- A string shorter than its field ends at a zero byte. -/
theorem getElem?_strLen {bs : List Byte} (h : strLen bs < bs.length) :
    bs[strLen bs]? = some 0x00#8 := by
  induction bs with
  | nil => cases h
  | cons c cs ih =>
    simp only [strLen, List.length_cons] at h ⊢
    by_cases hc : c = 0x00#8
    · rw [if_pos hc, hc]
      rfl
    · rw [if_neg hc] at h ⊢
      exact ih (by omega)

/-! ### The digit test (R170) -/

theorem isBcd_iff {b : Byte} : isBcd b = true ↔ b.toNat / 16 ≤ 9 ∧ b.toNat % 16 ≤ 9 := by
  simp only [isBcd, Bool.and_eq_true, decide_eq_true_eq]
  rfl

theorem State.all_fbBytes {s : State} {off n : Nat} {q : Byte → Bool} :
    (s.fbBytes off n).all q = true ↔ ∀ j, j < n → q (s.fbByte (off + j)) = true := by
  simp [State.fbBytes]

theorem State.getElem?_fbBytes_of_lt {s : State} {off n j : Nat} (h : j < n) :
    (s.fbBytes off n)[j]? = some (s.fbByte (off + j)) := by
  rw [State.getElem?_fbBytes, if_pos h]

/-! ### The two commands -/

theorem exec_decstr_of_inside {a : Byte} {c : Half} {s : State} (ha : a ≠ 0#8) (hg : s.fbk = .good)
    (hw : 5 + c.toNat + a.toNat ≤ s.fblen) (hs : s.fblen ≤ s.params.fbSize) :
    exec (.decstr a c) s = .next (s.responded
      (BitVec.ofNat 32 (strLen (s.fbBytes (3 + c.toNat) a.toNat))) (s.fbBytes (3 + c.toNat) a.toNat) false) := by
  show execDecstr a c s = _
  unfold execDecstr
  rw [if_neg ha, State.payload_of_inside hg hw hs]
  rfl

theorem exec_decbcd6_of_inside {c : Half} {s : State} (hg : s.fbk = .good)
    (hw : 5 + c.toNat + 6 ≤ s.fblen) (hs : s.fblen ≤ s.params.fbSize) :
    exec (.decbcd6 c) s = .next (s.responded
      (if (s.fbBytes (3 + c.toNat) 6).all isBcd then 1#32 else 0#32) (s.fbBytes (3 + c.toNat) 6) false) := by
  show execDecbcd6 c s = _
  unfold execDecbcd6
  rw [State.payload_of_inside hg hw hs]
  rfl

/-- Settles O12: inside the window both commands return the bytes of the buffer; the length is
`strLen`'s, and the digit test looks at each byte's two nibbles. -/
theorem byteDecodersReturnRawBytes : Obligations.ByteDecodersReturnRawBytes := by
  intro a c s hg hs p
  refine ⟨fun ha hw => ?_, fun hw => ?_⟩
  · have hle := strLen_le_length (s.fbBytes (3 + c.toNat) a.toNat)
    rw [State.length_fbBytes] at hle
    refine ⟨_, _, exec_decstr_of_inside ha hg hw hs, State.length_fbBytes s _ _,
      fun j hj => State.getElem?_fbBytes_of_lt hj, hle, fun j hj => ?_, fun hn => ?_⟩
    · exact ne_zero_of_lt_strLen hj (State.getElem?_fbBytes_of_lt (by omega))
    · have hend := getElem?_strLen (hn.trans_eq (State.length_fbBytes s _ _).symm)
      rw [State.getElem?_fbBytes_of_lt hn] at hend
      exact Option.some.inj hend
  · have hdigits : (s.fbBytes (3 + c.toNat) 6).all isBcd = true ↔
        ∀ j, j < 6 → (p j).toNat / 16 ≤ 9 ∧ (p j).toNat % 16 ≤ 9 := by
      simp only [State.all_fbBytes, isBcd_iff, p]
    refine ⟨_, _, exec_decbcd6_of_inside hg hw hs, State.length_fbBytes s _ _,
      fun j hj => State.getElem?_fbBytes_of_lt hj, ?_, ?_⟩
    · exact (em _).imp (if_pos ·) (if_neg ·)
    · rw [← hdigits]
      split <;> simp_all

end Sys2Proof.Machine
end

section
/-! A second edge on field-valid words (R275): the advance is followed on the seven numbers, whose
ranges it keeps, and carried over to the packed words, of which the numbers lose nothing. -/

namespace Sys2Proof.Machine

/-! ### Words and numbers -/

/-- The ranges of R34 on the numbers. -/
structure TimeNum.InRange (t : TimeNum) : Prop where
  s : t.s ≤ 59
  mi : t.mi ≤ 59
  h : t.h ≤ 23
  wd : t.wd ≤ 6
  d1 : 1 ≤ t.d
  d31 : t.d ≤ 31
  mo1 : 1 ≤ t.mo
  mo12 : t.mo ≤ 12
  y : t.y ≤ 99

/-- The second of the day the numbers show. -/
def TimeNum.second (t : TimeNum) : Nat := 3600 * t.h + 60 * t.mi + t.s

/-- The numbers as BCD fields. -/
def TimeNum.snap (t : TimeNum) : Snap :=
  ⟨bin2bcd t.s, bin2bcd t.mi, bin2bcd t.h, bin2bcd t.wd, bin2bcd t.d, bin2bcd t.mo, bin2bcd t.y⟩

@[simp] theorem extract_lo_packWord (hi lo : Byte) : (packWord hi lo).extractLsb' 0 8 = lo :=
  BitVec.extractLsb'_append_eq_right

@[simp] theorem extract_hi_packWord (hi lo : Byte) : (packWord hi lo).extractLsb' 8 8 = hi :=
  BitVec.extractLsb'_append_eq_left

theorem wordsSnap_wordsOf (t : TimeNum) : wordsSnap (wordsOf t) = t.snap := by
  simp [wordsSnap, wordsField, wordsOf, TimeNum.snap]

theorem secondOfDay_wordsSnap (w : ClockWords) : secondOfDay (wordsSnap w) = (timeOf w).second := rfl

theorem snapValid_iff {p : Snap} : snapValid p = true ↔
    fieldOk 0 59 p.sec = true ∧ fieldOk 0 59 p.min = true ∧ fieldOk 0 23 p.hour = true ∧
    fieldOk 0 6 p.weekday = true ∧ fieldOk 1 31 p.day = true ∧ fieldOk 1 12 p.month = true ∧
    fieldOk 0 99 p.year = true := by
  simp only [snapValid, Bool.and_eq_true, and_assoc]

theorem wordsValid_iff {w : ClockWords} :
    wordsValid w = true ↔ snapValid (wordsSnap w) = true ∧ w.w3.extractLsb' 8 8 = 0#8 := by
  simp only [wordsValid, Bool.and_eq_true, beq_iff_eq]

theorem inRange_timeOf {w : ClockWords} (hw : wordsValid w = true) : (timeOf w).InRange := by
  obtain ⟨hs, hmi, hh, hwd, hd, hmo, hy⟩ := snapValid_iff.1 (wordsValid_iff.1 hw).1
  rw [fieldOk_iff] at hs hmi hh hwd hd hmo hy
  exact ⟨hs.2.2, hmi.2.2, hh.2.2, hwd.2.2, hd.2.1, hd.2.2, hmo.2.1, hmo.2.2, hy.2.2⟩

theorem snap_timeOf {w : ClockWords} (hw : wordsValid w = true) : (timeOf w).snap = wordsSnap w := by
  obtain ⟨hs, hmi, hh, hwd, hd, hmo, hy⟩ := snapValid_iff.1 (wordsValid_iff.1 hw).1
  rw [fieldOk_iff] at hs hmi hh hwd hd hmo hy
  exact (Snap.mk.injEq ..).mpr ⟨bin2bcd_bcd2bin hs.1, bin2bcd_bcd2bin hmi.1, bin2bcd_bcd2bin hh.1,
    bin2bcd_bcd2bin hwd.1, bin2bcd_bcd2bin hd.1, bin2bcd_bcd2bin hmo.1, bin2bcd_bcd2bin hy.1⟩

theorem wordsValid_wordsOf {t : TimeNum} (ht : t.InRange) : wordsValid (wordsOf t) = true := by
  rw [wordsValid_iff, wordsSnap_wordsOf, snapValid_iff]
  exact ⟨⟨fieldOk_bin2bcd (Nat.zero_le _) ht.s (by decide),
    fieldOk_bin2bcd (Nat.zero_le _) ht.mi (by decide),
    fieldOk_bin2bcd (Nat.zero_le _) ht.h (by decide),
    fieldOk_bin2bcd (Nat.zero_le _) ht.wd (by decide),
    fieldOk_bin2bcd ht.d1 ht.d31 (by decide),
    fieldOk_bin2bcd ht.mo1 ht.mo12 (by decide),
    fieldOk_bin2bcd (Nat.zero_le _) ht.y (by decide)⟩, extract_hi_packWord _ _⟩

/-- In range the fields show the numbers they were made from. -/
theorem timeOf_wordsOf {t : TimeNum} (ht : t.InRange) : timeOf (wordsOf t) = t := by
  obtain ⟨hs, hmi, hh, hwd, -, hd, -, hmo, hy⟩ := ht
  simp only [timeOf, wordsField, wordsOf, extract_lo_packWord, extract_hi_packWord]
  rw [bcd2bin_bin2bcd (by omega), bcd2bin_bin2bcd (by omega), bcd2bin_bin2bcd (by omega),
    bcd2bin_bin2bcd (by omega), bcd2bin_bin2bcd (by omega), bcd2bin_bin2bcd (by omega),
    bcd2bin_bin2bcd (by omega)]

/-! ### The advance on the numbers -/

/-- The numbers at the midnight that follows a day, the date not yet advanced. -/
def TimeNum.midnight (t : TimeNum) : TimeNum := { t with s := 0, mi := 0, h := 0, wd := (t.wd + 1) % 7 }

theorem TimeNum.InRange.second_lt {t : TimeNum} (ht : t.InRange) : t.second < 86400 := by
  obtain ⟨hs, hmi, hh⟩ := ht
  unfold TimeNum.second
  omega

/-- Before midnight only the time of day advances. -/
theorem nextSecond_before_midnight {t : TimeNum} (ht : t.InRange) (h : t.second ≠ 86399) :
    ∃ s mi h, nextSecond t = { t with s := s, mi := mi, h := h } ∧ s ≤ 59 ∧ mi ≤ 59 ∧ h ≤ 23 ∧
      3600 * h + 60 * mi + s = t.second + 1 := by
  obtain ⟨hs, hmi, hh⟩ := ht
  unfold TimeNum.second at *
  unfold nextSecond
  split
  · unfold nextMinute
    split
    · unfold nextHour
      dsimp only at *
      rw [if_neg (by omega)]
      exact ⟨0, 0, t.h + 1, rfl, by omega⟩
    · exact ⟨0, t.mi + 1, t.h, rfl, by dsimp only at *; omega⟩
  · exact ⟨t.s + 1, t.mi, t.h, rfl, by omega⟩

theorem nextSecond_at_midnight {t : TimeNum} (ht : t.InRange) (h : t.second = 86399) :
    nextSecond t = nextDate t.midnight := by
  obtain ⟨hs, hmi, hh⟩ := ht
  unfold TimeNum.second at h
  unfold nextSecond nextMinute nextHour
  dsimp only
  rw [if_pos (by omega), if_pos (by omega), if_pos (by omega)]
  rfl

theorem nextDate_inside_month {t : TimeNum} (h : t.d < lastday t.y t.mo) :
    nextDate t = { t with d := t.d + 1 } := by
  unfold nextDate; rw [if_neg (by omega)]

theorem nextDate_month_end {t : TimeNum} (h : lastday t.y t.mo ≤ t.d) (hm : t.mo < 12) :
    nextDate t = { t with d := 1, mo := t.mo + 1 } := by
  unfold nextDate; rw [if_pos h, if_neg (by omega)]

theorem nextDate_year_end {t : TimeNum} (h : lastday t.y t.mo ≤ t.d) (hm : t.mo = 12) (hy : t.y ≤ 99) :
    nextDate t = { t with d := 1, mo := 1, y := (t.y + 1) % 100 } := by
  have hyear : (if 99 < t.y + 1 then 0 else t.y + 1) = (t.y + 1) % 100 := by split <;> omega
  unfold nextDate
  rw [if_pos h, if_pos (by omega), hyear]

theorem TimeNum.InRange.midnight {t : TimeNum} (ht : t.InRange) : t.midnight.InRange :=
  { ht with
    s := Nat.zero_le _
    mi := Nat.zero_le _
    h := Nat.zero_le _
    wd := Nat.le_of_lt_succ (Nat.mod_lt _ (by decide)) }

theorem TimeNum.InRange.nextDate {t : TimeNum} (ht : t.InRange) : (nextDate t).InRange := by
  by_cases hl : t.d < lastday t.y t.mo
  · have := lastday_range ht.mo1 ht.mo12 ht.y
    rw [nextDate_inside_month hl]
    exact { ht with d1 := by simp, d31 := by simp; omega }
  · rw [Nat.not_lt] at hl
    by_cases hm : t.mo < 12
    · rw [nextDate_month_end hl hm]
      exact { ht with d1 := by simp, d31 := by simp, mo1 := by simp, mo12 := hm }
    · rw [nextDate_year_end hl (by have := ht.mo12; omega) ht.y]
      exact { ht with d1 := by simp, d31 := by simp, mo1 := by simp, mo12 := by simp, y := by simp; omega }

theorem nextDate_second (t : TimeNum) : (nextDate t).second = t.second := by
  unfold nextDate TimeNum.second
  split
  · split <;> rfl
  · rfl

theorem nextDate_day_of_last {t : TimeNum} (h : lastday t.y t.mo ≤ t.d) : (nextDate t).d = 1 := by
  unfold nextDate
  rw [if_pos h]
  split <;> rfl

theorem nextDate_wd (t : TimeNum) : (nextDate t).wd = t.wd := by
  unfold nextDate
  split
  · split <;> rfl
  · rfl

theorem TimeNum.InRange.nextSecond {t : TimeNum} (ht : t.InRange) : (nextSecond t).InRange := by
  by_cases h : t.second = 86399
  · rw [nextSecond_at_midnight ht h]
    exact ht.midnight.nextDate
  · obtain ⟨s, mi, hr, e, hs, hmi, hh, -⟩ := nextSecond_before_midnight ht h
    rw [e]
    exact { ht with s := hs, mi := hmi, h := hh }

theorem nextSecond_second {t : TimeNum} (ht : t.InRange) :
    (nextSecond t).second = (t.second + 1) % 86400 := by
  by_cases h : t.second = 86399
  · rw [nextSecond_at_midnight ht h, nextDate_second, h]
    simp [TimeNum.midnight, TimeNum.second]
  · obtain ⟨s, mi, hr, e, -, -, -, hsec⟩ := nextSecond_before_midnight ht h
    have := ht.second_lt
    rw [e, Nat.mod_eq_of_lt (by omega), ← hsec]
    rfl

/-! ### The advance on the words -/

theorem timeOf_advanceWords {w : ClockWords} (hw : wordsValid w = true) :
    timeOf (advanceWords w) = nextSecond (timeOf w) :=
  timeOf_wordsOf (inRange_timeOf hw).nextSecond

/-- Settles O39: each clause is the advance's on the numbers. Where a field keeps its number it keeps
its byte, since a field-valid snapshot is the BCD form of its numbers. -/
theorem secondEdgeAdvancesTheTime : Obligations.SecondEdgeAdvancesTheTime := by
  intro w hw p q day month year
  have ht := inRange_timeOf hw
  have hp : p = (timeOf w).snap := (snap_timeOf hw).symm
  have hq : q = (nextSecond (timeOf w)).snap := wordsSnap_wordsOf _
  have hqt : timeOf (advanceWords w) = nextSecond (timeOf w) := timeOf_advanceWords hw
  refine ⟨wordsValid_wordsOf ht.nextSecond, ?_, fun hsec => ?_, fun hsec => ?_⟩
  · rw [secondOfDay_wordsSnap, secondOfDay_wordsSnap, hqt, nextSecond_second ht]
  · obtain ⟨s, mi, h, e, -⟩ := nextSecond_before_midnight ht hsec
    rw [hp, hq, e]
    exact ⟨rfl, rfl, rfl, rfl⟩
  · have e := nextSecond_at_midnight ht hsec
    have hwd : bcd2bin q.weekday = (nextSecond (timeOf w)).wd := congrArg TimeNum.wd hqt
    have hcarry : bcd2bin q.weekday = (bcd2bin p.weekday + 1) % 7 := by
      rw [hwd, e, nextDate_wd]
      rfl
    refine ⟨hcarry, fun hl => ?_, fun hl => ⟨?_, fun hm => ?_, fun hm => ?_⟩⟩
    · have e' := e.trans (nextDate_inside_month hl)
      exact ⟨congrArg TimeNum.d (hqt.trans e'), by rw [hp, hq, e']; rfl, by rw [hp, hq, e']; rfl⟩
    · exact (congrArg TimeNum.d (hqt.trans e)).trans (nextDate_day_of_last hl)
    · have e' := e.trans (nextDate_month_end hl hm)
      exact ⟨congrArg TimeNum.mo (hqt.trans e'), by rw [hp, hq, e']; rfl⟩
    · have e' := e.trans (nextDate_year_end hl hm ht.y)
      exact ⟨congrArg TimeNum.mo (hqt.trans e'), congrArg TimeNum.y (hqt.trans e')⟩

end Sys2Proof.Machine
end

section
/-! What the sequencer, the port and the wire run at a step (R27, R88, R100). -/

namespace Sys2Proof.Machine

/-! ### The agents' moves on what decodes -/

theorem State.micro_of_busy {s : State} {cmd : CmdWord} {pl : List Byte} {k : Nat} {i : Instr}
    (hs : s.seq = .busy cmd pl k) (hd : decodeCommand cmd pl = .ok i) : s.micro = exec i s := by
  unfold State.micro
  simp only [hs, hd]

theorem State.issue_of_ok {s : State} {cmd : CmdWord} {pl : List Byte} {i : Instr}
    (hd : decodeCommand cmd pl = .ok i) (hpl : pl.length ≤ s.params.fbSize) :
    s.issue cmd pl = exec i { s with portCmd := cmd, portPl := pl } := by
  unfold State.issue
  simp only [hd]
  exact if_pos (decide_eq_true hpl)

theorem State.carry_of_ok {s : State} {fmt : WireFormat} {bytes : List Byte} {i : Instr}
    (hd : decodeFrame s.params.wrByteCount fmt bytes = .ok i) : s.carry fmt bytes = exec i s := by
  unfold State.carry
  simp only [hd]

/-! ### The step by the head of the agenda -/

theorem step_of_nil {s : State} (h : s.agenda = []) : step s = s.renewFree.micro := by
  unfold step State.nextStep State.headEvent
  simp only [State.renewFree_agenda, h]

theorem step_of_micro {s : State} {rest : List Event} (h : s.agenda = .micro :: rest) :
    step s = { s.renewFree with agenda := rest }.micro := by
  unfold step State.nextStep State.headEvent
  simp only [State.renewFree_agenda, h]

theorem step_of_wire {s : State} {fmt : WireFormat} {bytes : List Byte} {rest : List Event}
    (h : s.agenda = .input (.wire fmt bytes) :: rest) :
    step s = { s.renewFree with agenda := rest }.carry fmt bytes := by
  unfold step State.nextStep State.headEvent
  simp only [State.renewFree_agenda, h]

theorem step_of_command_idle {s : State} {cmd : CmdWord} {pl : List Byte} {rest : List Event}
    (h : s.agenda = .input (.command cmd pl) :: rest) (hs : s.seq = .idle) :
    step s = { s.renewFree with agenda := rest }.issue cmd pl := by
  unfold step State.nextStep State.headEvent
  simp only [State.renewFree_agenda, State.renewFree_seq, h, hs]

/-- A command that waits while the sequencer is Busy stays at the head of the agenda. -/
theorem step_of_command_busy {s : State} {w : CmdWord} {ops : List Byte} {rest : List Event}
    {cmd : CmdWord} {pl : List Byte} {k : Nat}
    (h : s.agenda = .input (.command w ops) :: rest) (hs : s.seq = .busy cmd pl k) :
    step s = s.renewFree.micro := by
  unfold step State.nextStep State.headEvent
  simp only [State.renewFree_agenda, State.renewFree_seq, h, hs]

/-- Settles O49: the head of the agenda says whose move the step is, and each move runs what it
decodes. -/
theorem stepRunsTheDecodedInstruction : Obligations.StepRunsTheDecodedInstruction := by
  intro s i rest
  refine ⟨⟨State.renewFree_of_specified, ?_⟩, fun cmd pl hd => ⟨fun ha hs hpl => ?_, fun k hs =>
    ⟨fun ha => ?_, fun ha => ?_, fun w ops ha => ?_⟩⟩, fun fmt bytes hd ha => ?_⟩
  · obtain ⟨n, e, hfree, hunspec, -⟩ := State.renewFree_cases s
    exact ⟨n, e, hfree, hunspec⟩
  · rw [step_of_command_idle ha hs]
    exact State.issue_of_ok hd hpl
  · rw [step_of_nil ha]
    exact State.micro_of_busy hs hd
  · rw [step_of_micro ha]
    exact State.micro_of_busy hs hd
  · rw [step_of_command_busy ha hs]
    exact State.micro_of_busy hs hd
  · rw [step_of_wire ha]
    exact State.carry_of_ok hd

end Sys2Proof.Machine
end

section
/-! The buffer's canonical form and the parameters (R9, R40): every step keeps them. A store into the
buffer is the one thing that touches the form, and it stays below `FB_SIZE`. -/

namespace Sys2Proof.Machine

/-- `t` has the parameters of `s`, and the canonical form if `s` has it. -/
def State.KeepsForm (s t : State) : Prop := t.params = s.params ∧ (s.memOk → t.memOk)

theorem State.KeepsForm.trans {s t u : State} (hst : s.KeepsForm t) (htu : t.KeepsForm u) : s.KeepsForm u :=
  ⟨htu.1.trans hst.1, fun hs => htu.2 (hst.2 hs)⟩

theorem State.KeepsForm.of_fb {s t : State} (hfb : t.fb = s.fb) (hp : t.params = s.params) :
    s.KeepsForm t :=
  ⟨hp, fun hs => by unfold State.memOk; rwa [hfb, hp]⟩

theorem State.KeepsForm.of_empty {s t : State} (hfb : t.fb = []) (hp : t.params = s.params) :
    s.KeepsForm t :=
  ⟨hp, fun _ => by unfold State.memOk; rw [hfb]; exact Memory.wf_nil _⟩

theorem State.KeepsForm.of_setList {s t : State} {off : Nat} {bs : List Byte}
    (hfb : t.fb = Memory.setList s.fb off bs) (hp : t.params = s.params)
    (hle : off + bs.length ≤ s.params.fbSize) : s.KeepsForm t :=
  ⟨hp, fun hs => by unfold State.memOk; rw [hfb, hp]; exact Memory.wf_setList bs hs hle⟩

/-! ### The shared operations -/

theorem State.buildFrame_keepsForm {s t : State} {f : List Byte} (h : s.buildFrame f = .next t) :
    s.KeepsForm t := by
  obtain ⟨hle, rfl⟩ := State.buildFrame_next h
  exact .of_setList (State.done_fb ..) (State.done_params ..) (by omega)

/-- A decoder ends with what it makes of the window's bytes, and writes the response only. -/
theorem State.payload_done_keepsForm {s t : State} {off w : Nat} {r : List Byte → Word}
    {rb : List Byte → List Byte}
    (h : s.payload off w (fun p => .next (s.done (r p) (rb p) false)) = .next t) : s.KeepsForm t := by
  rcases State.payload_next h with ⟨-, rfl⟩ | ⟨-, -, rfl⟩ | ⟨-, -, -, hd⟩
  · exact .of_fb rfl rfl
  · exact .of_fb rfl rfl
  · cases hd
    exact .of_fb rfl rfl

theorem State.setField_keepsForm (s : State) (a : Byte) (xw : Nat × Bool) (f : Snap → Byte → Snap)
    (g : AlarmSnap → Byte → AlarmSnap) : s.KeepsForm (s.setField a xw f g) := by
  by_cases h0 : a = 0#8
  · rw [h0, State.setField_clk]
    exact .of_fb rfl rfl
  by_cases h1 : a = 1#8
  · rw [h1, State.setField_alm]
    exact .of_fb rfl rfl
  rw [State.setField_other h0 h1]
  exact .of_fb rfl rfl

@[simp] theorem State.endRead_fb (s : State) : s.endRead.fb = s.fb := by
  unfold State.endRead; split <;> rfl

@[simp] theorem State.endRead_params (s : State) : s.endRead.params = s.params := by
  unfold State.endRead; split <;> rfl

/-! ### A transaction -/

theorem State.xactPoll_keepsForm {s t : State} (h : s.xactPoll = .next t) : s.KeepsForm t := by
  rcases State.xactPoll_cases s with ⟨b, -, e⟩ | ⟨-, e⟩ <;> rw [e] at h
  · obtain ⟨hidx, ⟨-, rfl⟩ | ⟨-, rfl⟩⟩ := State.xactByte_next h
    · exact .of_setList (bs := [b]) (State.goto_fb ..) (State.goto_params ..) hidx
    · exact .of_setList (bs := [b]) rfl rfl hidx
  · rcases State.xactNone_cases s.renewFree.rxAdvance with ⟨-, e⟩ | ⟨-, e⟩ <;> rw [e] at h <;> cases h
    · exact .of_empty rfl rfl
    · exact .of_fb rfl rfl

theorem State.xact_keepsForm {s t : State} {k : Nat} {f : List Byte} {n : Nat} {ok : State → Result}
    (h : s.xact k f n ok = .next t) (hok : ∀ u, ok u = .next t → u.KeepsForm t) : s.KeepsForm t := by
  rcases State.xact_next h with ⟨-, h⟩ | ⟨-, h⟩ | ⟨-, rfl⟩ | ⟨-, h⟩ | ⟨-, h⟩
  · obtain ⟨hle, rfl⟩ := State.xactBuild_next h
    exact .of_setList (State.goto_fb ..) (State.goto_params ..) (by omega)
  · rcases State.xactSend_next h with ⟨-, -, rfl⟩ | ⟨-, rfl⟩ <;>
      exact .of_fb (State.goto_fb ..) (State.goto_params ..)
  · exact .of_empty (State.goto_fb ..) (State.goto_params ..)
  · exact State.xactPoll_keepsForm h
  · obtain ⟨-, ⟨-, h⟩ | ⟨-, rfl⟩⟩ := State.xactCheck_next h
    · refine State.KeepsForm.trans ?_ (hok _ h)
      exact .of_fb rfl rfl
    · exact .of_fb rfl rfl

theorem State.writeMultiple_keepsForm {s t : State} {a : Byte} {b : Half} {pl : List Byte}
    (h : s.writeMultiple a b pl = .next t) : s.KeepsForm t := by
  unfold State.writeMultiple at h
  split at h
  · split at h <;> cases h <;> exact .of_fb rfl rfl
  · refine State.xact_keepsForm h fun u hu => ?_
    cases hu
    exact .of_fb rfl rfl

theorem execRdhold_keepsForm {s t : State} {a : Byte} {b c : Half} (h : execRdhold a b c s = .next t) :
    s.KeepsForm t := by
  unfold execRdhold at h
  split at h
  · split at h <;> cases h <;> exact .of_fb rfl rfl
  · refine State.xact_keepsForm h fun u hu => ?_
    obtain ⟨-, hd⟩ := State.readFb_next hu
    cases hd
    exact .of_fb rfl rfl

/-! ### The commands of several micro-steps that leave the buffer alone -/

theorem execCkread_keepsForm {s t : State} (h : execCkread s = .next t) : s.KeepsForm t := by
  unfold execCkread at h
  split at h
  · cases h
    exact .of_fb rfl rfl
  · split at h <;> cases h <;> exact .of_fb (by simp) (by simp)

theorem execCkcommit_keepsForm {s t : State} (h : execCkcommit s = .next t) : s.KeepsForm t := by
  unfold execCkcommit at h
  split at h
  · cases h
    exact .of_fb rfl rfl
  · split at h <;> cases h <;> exact .of_fb (by simp) (by simp)

theorem execSetalm_keepsForm {s t : State} (h : execSetalm s = .next t) : s.KeepsForm t := by
  unfold execSetalm at h
  split at h
  · cases h
    exact .of_fb rfl rfl
  · split at h <;> cases h <;> exact .of_fb (by simp) (by simp)

theorem execArmalm_keepsForm {s t : State} {m : BitVec 4} (h : execArmalm m s = .next t) :
    s.KeepsForm t := by
  unfold execArmalm at h
  split at h
  · cases h
    exact .of_fb rfl rfl
  · split at h
    · split at h <;> cases h <;> exact .of_fb (by simp) (by simp)
    · cases h
      exact .of_fb rfl rfl
    · cases h

/-! ### The commands of one step with cases of their own -/

theorem execBldwr_keepsForm {s t : State} {a : Byte} {b : Half} {pl : List Byte}
    (h : execBldwr a b pl s = .next t) : s.KeepsForm t := by
  unfold execBldwr at h
  split at h
  · exact State.buildFrame_keepsForm h
  · cases h
    exact .of_fb rfl rfl

theorem execSeal_keepsForm {s t : State} {pl : List Byte} (h : execSeal pl s = .next t) :
    s.KeepsForm t := by
  unfold execSeal at h
  split at h
  · cases h
    exact .of_fb rfl rfl
  · exact State.buildFrame_keepsForm h

theorem execVerify_keepsForm {s t : State} (h : execVerify s = .next t) : s.KeepsForm t := by
  unfold execVerify at h
  split at h
  · cases h
    exact .of_fb rfl rfl
  · obtain ⟨-, hd⟩ := State.readFb_next h
    cases hd
    exact .of_fb rfl rfl

theorem execLdfb_keepsForm {s t : State} {pl : List Byte} (h : execLdfb pl s = .next t) :
    s.KeepsForm t := by
  obtain ⟨hle, hd⟩ := State.loadFb_next h
  cases hd
  exact .of_setList (State.done_fb ..) (State.done_params ..) (by omega)

theorem execRdfb_keepsForm {s t : State} (h : execRdfb s = .next t) : s.KeepsForm t := by
  unfold execRdfb at h
  split at h
  · cases h
    exact .of_fb rfl rfl
  · obtain ⟨-, hd⟩ := State.readFb_next h
    cases hd
    exact .of_fb rfl rfl

theorem execDecstr_keepsForm {s t : State} {a : Byte} {c : Half} (h : execDecstr a c s = .next t) :
    s.KeepsForm t := by
  unfold execDecstr at h
  split at h
  · cases h
    exact .of_fb rfl rfl
  · exact State.payload_done_keepsForm h

theorem execWkday_keepsForm {s t : State} {y m d : Byte} (h : execWkday y m d s = .next t) :
    s.KeepsForm t := by
  cases h
  split <;> exact .of_fb rfl rfl

theorem execSetyear_keepsForm {s t : State} {a v : Byte} (h : execSetyear a v s = .next t) :
    s.KeepsForm t := by
  unfold execSetyear at h
  dsimp only at h
  split at h
  · cases h
    exact .of_fb rfl rfl
  · split at h <;> cases h <;> exact .of_fb rfl rfl

theorem execRdsnap_keepsForm {s t : State} {a : Byte} (h : execRdsnap a s = .next t) :
    s.KeepsForm t := by
  cases h
  split
  · exact .of_fb rfl rfl
  · split
    · exact .of_fb rfl rfl
    · split <;> exact .of_fb rfl rfl

/-! ### Every instruction -/

theorem exec_keepsForm {i : Instr} {s t : State} (h : exec i s = .next t) : s.KeepsForm t := by
  match i, h with
  | .bldrd .., h => exact State.buildFrame_keepsForm h
  | .bldwr .., h => exact execBldwr_keepsForm h
  | .seal .., h => exact execSeal_keepsForm h
  | .verify, h => exact execVerify_keepsForm h
  | .ldfb .., h => exact execLdfb_keepsForm h
  | .rdfb, h => exact execRdfb_keepsForm h
  | .crc16 .., h => cases h; exact .of_fb rfl rfl
  | .decf32s .., h => exact State.payload_done_keepsForm h
  | .deci32 .., h => exact State.payload_done_keepsForm h
  | .decu16 .., h => exact State.payload_done_keepsForm h
  | .decstr .., h => exact execDecstr_keepsForm h
  | .decbcd6 .., h => exact State.payload_done_keepsForm h
  | .rdhold .., h => exact execRdhold_keepsForm h
  | .wrmult .., h => exact State.writeMultiple_keepsForm h
  | .unlock, h => exact State.writeMultiple_keepsForm h
  | .ckread, h => exact execCkread_keepsForm h
  | .ckcommit, h => exact execCkcommit_keepsForm h
  | .wkday .., h => exact execWkday_keepsForm h
  | .setsec .., h => cases h; exact State.setField_keepsForm ..
  | .setmin .., h => cases h; exact State.setField_keepsForm ..
  | .sethour .., h => cases h; exact State.setField_keepsForm ..
  | .setday .., h => cases h; exact State.setField_keepsForm ..
  | .setmon .., h => cases h; exact State.setField_keepsForm ..
  | .setyear .., h => exact execSetyear_keepsForm h
  | .setalm, h => exact execSetalm_keepsForm h
  | .armalm .., h => exact execArmalm_keepsForm h
  | .rdsnap .., h => exact execRdsnap_keepsForm h
  | .rdstat, h => cases h; exact .of_fb rfl rfl
  | .req03 .., h => cases h; exact .of_fb rfl rfl
  | .req16 .., h => cases h; exact .of_fb rfl rfl
  | .rsp03 .., h => cases h; exact .of_fb rfl rfl
  | .rsp16 .., h => cases h; exact .of_fb rfl rfl

/-! ### The agents' moves -/

theorem State.micro_keepsForm {s t : State} (h : s.micro = .next t) : s.KeepsForm t := by
  unfold State.micro at h
  split at h
  · cases h; exact .of_fb rfl rfl
  · split at h
    · exact exec_keepsForm h
    · cases h; exact .of_fb rfl rfl

theorem State.issue_keepsForm {s t : State} {cmd : CmdWord} {pl : List Byte}
    (h : s.issue cmd pl = .next t) : s.KeepsForm t := by
  unfold State.issue at h
  split at h
  · cases h; exact .of_fb rfl rfl
  · split at h
    · refine State.KeepsForm.trans ?_ (exec_keepsForm h)
      exact .of_fb rfl rfl
    · cases h

theorem State.carry_keepsForm {s t : State} {fmt : WireFormat} {bytes : List Byte}
    (h : s.carry fmt bytes = .next t) : s.KeepsForm t := by
  cases hd : decodeFrame s.params.wrByteCount fmt bytes with
  | ok i => exact exec_keepsForm (State.carry_of_ok hd ▸ h)
  | error e =>
    rw [State.carry_of_error hd] at h
    cases h
    split <;> exact .of_fb rfl rfl

theorem step_keepsForm {s t : State} (h : step s = .next t) : s.KeepsForm t := by
  have hrenew : s.KeepsForm s.renewFree := .of_fb rfl rfl
  have hfree : ∀ rest, s.KeepsForm { s.renewFree with agenda := rest } := fun _ => .of_fb rfl rfl
  rcases step_cases s with ⟨-, e⟩ | ⟨rest, -, e⟩ | ⟨rest, -, e⟩ | ⟨rest, -, e⟩ | ⟨rest, -, e⟩ |
    ⟨fmt, bytes, rest, -, e⟩ | ⟨cmd, pl, rest, -, -, e⟩ | ⟨cmd, pl, rest, -, -, e⟩ <;> rw [e] at h
  · exact hrenew.trans (State.micro_keepsForm h)
  · exact (hfree rest).trans (State.micro_keepsForm h)
  · cases h; exact .of_fb (State.htick_fb _) (State.htick_params _)
  · cases h; exact .of_fb (State.almack_fb _) (State.almack_params _)
  · cases h; exact .of_empty (State.resetBlock_fb _) (State.resetBlock_params _)
  · exact (hfree rest).trans (State.carry_keepsForm h)
  · exact (hfree rest).trans (State.issue_keepsForm h)
  · exact hrenew.trans (State.micro_keepsForm h)

/-- Settles O52: `step_keepsForm` is the statement, and rests on one lemma per instruction. -/
theorem stepKeepsMemoryCanonical : Obligations.StepKeepsMemoryCanonical :=
  fun _ _ h => step_keepsForm h

end Sys2Proof.Machine
end

section
/-! The state after reset (R60) satisfies every invariant, whatever parameters R9 allows; the defaults
are among these, whatever the OPEN ones are. -/

namespace Sys2Proof.Machine

/-! ### The default parameters -/

theorem length_regsToBytes (rs : List Half) : (regsToBytes rs).length = 2 * rs.length := by
  induction rs with
  | nil => rfl
  | cons r rs ih =>
    simp only [regsToBytes, List.length_cons, ih]
    omega

/-- The default key is at most 124 registers, which fits the default buffer (log 4). -/
theorem Params.default_keyOk : Params.default.keyOk = true := by
  have hlen : Params.default.unlockKey.length = 2 * (Config.openUnlockRegs.take 124).length :=
    length_regsToBytes _
  have hmax : (Config.openUnlockRegs.take 124).length ≤ 124 := List.length_take_le _ _
  have heven : (Params.default.unlockKey.length % 2 == 0) = true := by rw [beq_iff_eq]; omega
  have hfits : 8 + 0 + Params.default.unlockKey.length ≤ 256 := by omega
  unfold Params.keyOk writeRequestFits
  simp only [Bool.and_eq_true]
  exact ⟨⟨heven, decide_eq_true hfits⟩, rfl⟩

theorem Params.default_ok : Params.default.ok = true := by
  unfold Params.ok
  rw [Params.default_keyOk]
  decide

/-! ### The invariants -/

theorem Params.resetTime_valid {P : Params} (hP : P.ok = true) : wordsValid P.resetTime = true := by
  simp only [Params.ok, clockValid, dateValid, Bool.and_eq_true, beq_iff_eq] at hP
  obtain ⟨⟨-, ⟨hsnap, -⟩, -⟩, hhigh⟩ := hP
  simp only [wordsValid, hsnap, hhigh, beq_self_eq_true, Bool.and_self]

theorem State.resetOf_clockOk {P : Params} (hP : P.ok = true) : (State.resetOf P).clockOk :=
  have hreset : snapValid resetSnap = true ∧ alarmValid resetAlarm = true ∧
      wordsValid resetAlarmWords = true := by decide
  have htime := Params.resetTime_valid hP
  ⟨hreset.1, hreset.1, hreset.2.1, htime, hreset.2.2, htime⟩

theorem State.resetOf_alcfgOk (P : Params) : (State.resetOf P).alcfgOk := by
  show (0x00#8).extractLsb' 4 3 = 0#3 ∧ (amask 0x00#8).toNat ≤ 9
  decide

theorem State.resetOf_bufOk (P : Params) : (State.resetOf P).bufOk :=
  ⟨⟨Nat.zero_le _, fun _ => rfl, nofun, nofun, fun _ _ hi => absurd hi (Nat.not_lt_zero _)⟩, trivial⟩

theorem State.resetOf_inv {P : Params} (hP : P.ok = true) : (State.resetOf P).Inv where
  params := hP
  mem := Memory.wf_nil _
  clock := State.resetOf_clockOk hP
  alcfg := State.resetOf_alcfgOk P
  lock := ⟨rfl, rfl, rfl⟩
  buf := State.resetOf_bufOk P
  seq := trivial

/-- Settles O58: the reset state of any parameters that R9 allows, of which the defaults are one. -/
theorem resetStateIsLegal : Obligations.ResetStateIsLegal :=
  ⟨State.resetOf_inv Params.default_ok, fun _ hP => State.resetOf_inv hP⟩

end Sys2Proof.Machine
end

section
/-! Field-valid snapshots and words (R34), one field at a time: a snapshot is field-valid when each of
its seven fields is within that field's bounds, so storing a legal byte in one field keeps it valid. -/

namespace Sys2Proof.Machine

/-! ### One field -/

/-- The least and the greatest number of a field (R34). -/
def fieldBounds : Field → Nat × Nat
  | .sec => (0, 59)
  | .min => (0, 59)
  | .hour => (0, 23)
  | .weekday => (0, 6)
  | .day => (1, 31)
  | .month => (1, 12)
  | .year => (0, 99)

/-- A byte that field `f` may hold. -/
def LegalField (f : Field) (b : Byte) : Prop := fieldOk (fieldBounds f).1 (fieldBounds f).2 b = true

theorem legalField_bin2bcd {f : Field} {v : Nat} (hlo : (fieldBounds f).1 ≤ v) (hhi : v ≤ (fieldBounds f).2) :
    LegalField f (bin2bcd v) :=
  fieldOk_bin2bcd hlo hhi (by cases f <;> decide)

theorem LegalField.range {f : Field} {b : Byte} (h : LegalField f b) :
    (fieldBounds f).1 ≤ bcd2bin b ∧ bcd2bin b ≤ (fieldBounds f).2 :=
  (fieldOk_iff.1 h).2

/-! ### Snapshots -/

theorem snapValid_iff_legal {p : Snap} : snapValid p = true ↔ ∀ f, LegalField f (snapGet p f) := by
  rw [snapValid_iff]
  constructor
  · rintro ⟨hs, hmi, hh, hwd, hd, hmo, hy⟩ (_ | _ | _ | _ | _ | _ | _)
    exacts [hs, hmi, hh, hwd, hd, hmo, hy]
  · intro h
    exact ⟨h .sec, h .min, h .hour, h .weekday, h .day, h .month, h .year⟩

theorem snapGet_snapSet (p : Snap) (f g : Field) (b : Byte) :
    snapGet (snapSet p f b) g = if g = f then b else snapGet p g := by
  cases f <;> cases g <;> rfl

theorem snapValid_snapSet {p : Snap} {f : Field} {b : Byte} (hp : snapValid p = true)
    (hb : LegalField f b) : snapValid (snapSet p f b) = true := by
  rw [snapValid_iff_legal] at *
  intro g
  rw [snapGet_snapSet]
  split
  · next hg => exact hg ▸ hb
  · exact hp g

theorem lastday_range_of_snapValid {p : Snap} (hp : snapValid p = true) :
    28 ≤ lastday (bcd2bin p.year) (bcd2bin p.month) ∧ lastday (bcd2bin p.year) (bcd2bin p.month) ≤ 31 := by
  have hf := snapValid_iff_legal.1 hp
  obtain ⟨hmo1, hmo12⟩ := (hf .month).range
  exact lastday_range hmo1 hmo12 (hf .year).range.2

/-- The formula's weekday is a legal weekday field: one digit, the same in BCD as in binary. -/
theorem legalField_weekdayByte {p : Snap} (hp : snapValid p = true) :
    LegalField .weekday (weekdayByte p.year p.month p.day) := by
  have hf := snapValid_iff_legal.1 hp
  obtain ⟨hmo1, hmo12⟩ := (hf .month).range
  obtain ⟨hd1, hd31⟩ := (hf .day).range
  have hlt : weekday (bcd2bin p.year) (bcd2bin p.month) (bcd2bin p.day) < 7 :=
    weekday_lt (hf .year).range.2 hmo1 hmo12 hd1 hd31
  have digit : ∀ v : Fin 7, fieldOk 0 6 (BitVec.ofNat 8 v.val) = true := by decide
  exact digit ⟨_, hlt⟩

/-! ### The alarm snapshot -/

/-- The alarm snapshot with a weekday put in, which it does not have (R33). -/
def alarmAsSnap (a : AlarmSnap) (wd : Byte) : Snap :=
  ⟨a.sec, a.min, a.hour, wd, a.day, a.month, a.year⟩

theorem snapValid_alarmAsSnap {a : AlarmSnap} {wd : Byte} (ha : alarmValid a = true)
    (hwd : LegalField .weekday wd) : snapValid (alarmAsSnap a wd) = true := by
  simp only [alarmValid, Bool.and_eq_true] at ha
  obtain ⟨⟨⟨⟨⟨hs, hmi⟩, hh⟩, hd⟩, hmo⟩, hy⟩ := ha
  exact snapValid_iff.2 ⟨hs, hmi, hh, hwd, hd, hmo, hy⟩

theorem alarmValid_of_alarmAsSnap {a : AlarmSnap} {wd : Byte}
    (h : snapValid (alarmAsSnap a wd) = true) : alarmValid a = true := by
  obtain ⟨hs, hmi, hh, -, hd, hmo, hy⟩ := snapValid_iff.1 h
  simp only [alarmValid, Bool.and_eq_true]
  exact ⟨⟨⟨⟨⟨hs, hmi⟩, hh⟩, hd⟩, hmo⟩, hy⟩

/-- An alarm snapshot is field-valid exactly when it is with a legal weekday put in. -/
theorem alarmValid_iff {a : AlarmSnap} :
    alarmValid a = true ↔ snapValid (alarmAsSnap a 0#8) = true :=
  ⟨fun ha => snapValid_alarmAsSnap ha (by unfold LegalField; decide), alarmValid_of_alarmAsSnap⟩

/-! ### Packed words -/

theorem packWord_hardwired (b : Byte) : packWord 0x00#8 b &&& 0x00FF#16 = packWord 0x00#8 b := by
  apply BitVec.eq_of_toNat_eq
  have hval : (packWord 0x00#8 b).toNat = b.toNat := by
    rw [packWord, BitVec.toNat_append, BitVec.toNat_ofNat, Nat.zero_mod, Nat.zero_shiftLeft, Nat.zero_or]
  have hmask : (0x00FF#16).toNat = 2 ^ 8 - 1 := rfl
  rw [BitVec.toNat_and, hmask, Nat.and_two_pow_sub_one_eq_mod, hval]
  exact Nat.mod_eq_of_lt b.isLt

theorem legalField_wordsField {w : ClockWords} (hw : wordsValid w = true) (f : Field) :
    LegalField f (wordsField w f) := by
  have hf := snapValid_iff_legal.1 (wordsValid_iff.1 hw).1 f
  cases f <;> exact hf

/-- The two bytes that word `i` may be packed from (the packing table of R35). -/
def LegalWord (i : Fin 4) (hi lo : Byte) : Prop :=
  match i with
  | 0 => LegalField .min hi ∧ LegalField .sec lo
  | 1 => LegalField .weekday hi ∧ LegalField .hour lo
  | 2 => LegalField .month hi ∧ LegalField .day lo
  | 3 => hi = 0x00#8 ∧ LegalField .year lo

/-- A write of one word replaces that word's two fields and leaves the other five. -/
theorem wordsValid_writeWord {w : ClockWords} {i : Fin 4} {hi lo : Byte} (hw : wordsValid w = true)
    (hb : LegalWord i hi lo) : wordsValid (writeWord w i (packWord hi lo)) = true := by
  obtain ⟨hsnap, hhigh⟩ := wordsValid_iff.1 hw
  obtain ⟨hs, hmi, hh, hwd, hd, hmo, hy⟩ := snapValid_iff.1 hsnap
  have hv : LegalWord i ((packWord hi lo).extractLsb' 8 8) ((packWord hi lo).extractLsb' 0 8) := by
    rwa [extract_hi_packWord, extract_lo_packWord]
  rw [wordsValid_iff, snapValid_iff]
  match i, hb, hv with
  | 0, _, ⟨h8, h0⟩ => exact ⟨⟨h0, h8, hh, hwd, hd, hmo, hy⟩, hhigh⟩
  | 1, _, ⟨h8, h0⟩ => exact ⟨⟨hs, hmi, h0, h8, hd, hmo, hy⟩, hhigh⟩
  | 2, _, ⟨h8, h0⟩ => exact ⟨⟨hs, hmi, hh, hwd, h0, h8, hy⟩, hhigh⟩
  | 3, ⟨hzero, _⟩, ⟨h8, h0⟩ =>
    subst hzero
    rw [← packWord_hardwired] at h8 h0
    exact ⟨⟨hs, hmi, hh, hwd, hd, hmo, h0⟩, h8⟩

end Sys2Proof.Machine
end

section
/-! Dates that exist (R34): what SETDAY and SETYEAR leave (R226 to R228), on a snapshot, and so on the
alarm snapshot with a weekday put in. -/

namespace Sys2Proof.Machine

theorem dateValid_iff {p : Snap} : dateValid p = true ↔
    snapValid p = true ∧ bcd2bin p.day ≤ lastday (bcd2bin p.year) (bcd2bin p.month) := by
  simp [dateValid]

/-- A day wrapped at the last day of the stored month exists (R226). -/
theorem dateValid_wrapDay {p : Snap} (hp : snapValid p = true) (v : Nat) :
    dateValid { p with
      day := bin2bcd (wrapDay (lastday (bcd2bin p.year) (bcd2bin p.month)) v).1 } = true := by
  obtain ⟨hl28, hl31⟩ := lastday_range_of_snapValid hp
  obtain ⟨h1, hle⟩ := wrapDay_range (v := v) (show 1 ≤ lastday (bcd2bin p.year) (bcd2bin p.month) by omega)
  refine dateValid_iff.2
    ⟨snapValid_snapSet (f := .day) hp (legalField_bin2bcd h1 (hle.trans hl31)), ?_⟩
  rw [bcd2bin_bin2bcd (by omega)]
  exact hle

/-- A new year is stored with the day re-validated against it, so the date exists (R227). -/
theorem dateValid_wrap100 {p : Snap} (hp : snapValid p = true) (v : Nat) :
    dateValid { p with
      year := bin2bcd (wrap100 v).1
      day := if dayAdjusted (wrap100 v).1 p.month p.day then 0x01#8 else p.day } = true := by
  have hy99 := wrap100_le v
  have hyear : snapValid (snapSet p .year (bin2bcd (wrap100 v).1)) = true :=
    snapValid_snapSet hp (legalField_bin2bcd (Nat.zero_le _) hy99)
  have hl := lastday_range_of_snapValid hyear
  have ey : bcd2bin (snapSet p .year (bin2bcd (wrap100 v).1)).year = (wrap100 v).1 :=
    bcd2bin_bin2bcd hy99
  rw [ey] at hl
  rw [dateValid_iff]
  dsimp only [snapSet] at *
  rw [ey]
  cases hadj : dayAdjusted (wrap100 v).1 p.month p.day with
  | true =>
    have hfirst : LegalField .day 0x01#8 := by unfold LegalField; decide
    refine ⟨snapValid_snapSet (f := .day) hyear hfirst, ?_⟩
    show bcd2bin 0x01#8 ≤ _
    exact Nat.le_trans (by decide) hl.1
  | false => exact ⟨hyear, Nat.le_of_not_lt (of_decide_eq_false hadj)⟩

/-- The alarm snapshot's date exists exactly when it does with a weekday put in. -/
theorem dateValid_alarmAsSnap {a : AlarmSnap} : dateValid (alarmAsSnap a 0#8) = true ↔
    alarmValid a = true ∧ bcd2bin a.day ≤ lastday (bcd2bin a.year) (bcd2bin a.month) := by
  rw [dateValid_iff, alarmValid_iff]
  rfl

/-- Settles O33: the two setters' rules on the target, `PRI` as it is and `ALM` with a weekday put in. -/
theorem dayAndYearSettersLeaveRealDates : Obligations.DayAndYearSettersLeaveRealDates := by
  rintro v i s (rfl | rfl)
  · exact ⟨fun hp => ⟨_, rfl, dateValid_wrapDay hp v.toNat⟩, fun ha =>
      ⟨_, rfl, dateValid_alarmAsSnap.1 (dateValid_wrapDay (alarmValid_iff.1 ha) v.toNat)⟩⟩
  · exact ⟨fun hp => ⟨_, rfl, dateValid_wrap100 hp v.toNat⟩, fun ha =>
      ⟨_, rfl, dateValid_alarmAsSnap.1 (dateValid_wrap100 (alarmValid_iff.1 ha) v.toNat)⟩⟩

end Sys2Proof.Machine
end

section
/-! A second edge and the calendar (R219, R275): the weekday formula goes on by one, modulo 7, from a
day to the day after it, inside a month, across a month's end and across a year's end below 99. -/

namespace Sys2Proof.Machine

/-! ### The weekday of the day after -/

theorem weekday_of_domain {y m d : Nat} (hy : y ≤ 99) (hm1 : 1 ≤ m) (hm12 : m ≤ 12) (hd1 : 1 ≤ d)
    (hd31 : d ≤ 31) : weekday y m d =
      (if y % 4 = 0 ∧ m < 3 then 5 + y + y / 4 + monthOffset m + d
       else 6 + y + y / 4 + monthOffset m + d) % 7 := by
  unfold weekday
  rw [if_pos ⟨hy, hm1, hm12, hd1, hd31⟩]
  dsimp only
  split <;> congr 1
  omega

theorem weekday_next_day {y m d : Nat} (hy : y ≤ 99) (hm1 : 1 ≤ m) (hm12 : m ≤ 12) (hd1 : 1 ≤ d)
    (hd30 : d < 31) : weekday y m (d + 1) = (weekday y m d + 1) % 7 := by
  rw [weekday_of_domain hy hm1 hm12 hd1 (by omega), weekday_of_domain hy hm1 hm12 (by omega) (by omega)]
  split <;> omega

theorem lastday_of_domain {y m : Nat} (hm1 : 1 ≤ m) (hm12 : m ≤ 12) (hy : y ≤ 99) :
    lastday y m = if m = 2 ∧ y % 4 = 0 then daysPerMonth m + 1 else daysPerMonth m := by
  unfold lastday leap
  rw [if_pos ⟨hm1, hm12, hy⟩]
  simp only [beq_iff_eq]

theorem weekday_next_month {y m : Nat} (hy : y ≤ 99) (hm1 : 1 ≤ m) (hm : m < 12) :
    weekday y (m + 1) 1 = (weekday y m (lastday y m) + 1) % 7 := by
  have hl := lastday_range hm1 hm.le hy
  rw [weekday_of_domain hy hm1 hm.le (by omega) hl.2, weekday_of_domain hy (by omega) hm (by omega) (by omega),
    lastday_of_domain hm1 hm.le hy]
  by_cases hleap : y % 4 = 0 <;> interval_cases m <;> simp [monthOffset, daysPerMonth, hleap] <;> omega

theorem weekday_next_year {y : Nat} (hy : y < 99) :
    weekday (y + 1) 1 1 = (weekday y 12 (lastday y 12) + 1) % 7 := by
  have hl := lastday_range (m := 12) (by decide) (by decide) hy.le
  rw [weekday_of_domain hy.le (by decide) (by decide) (by omega) hl.2,
    weekday_of_domain hy (by decide) (by decide) (by decide) (by decide),
    lastday_of_domain (by decide) (by decide) hy.le]
  by_cases hleap : (y + 1) % 4 = 0 <;> simp [monthOffset, daysPerMonth, hleap] <;> omega

/-! ### A valid clock value, on the numbers -/

/-- The date exists and the weekday is the formula's. -/
def TimeNum.Valid (t : TimeNum) : Prop := t.d ≤ lastday t.y t.mo ∧ t.wd = weekday t.y t.mo t.d

theorem snapValid_snap {t : TimeNum} (ht : t.InRange) : snapValid t.snap = true := by
  rw [← wordsSnap_wordsOf]
  exact (wordsValid_iff.1 (wordsValid_wordsOf ht)).1

theorem clockValid_snap {t : TimeNum} (ht : t.InRange) : clockValid t.snap = true ↔ t.Valid := by
  have hvalid := snapValid_snap ht
  obtain ⟨-, -, -, hwd, -, hd, -, hmo, hy⟩ := ht
  have ewd : bcd2bin t.snap.weekday = t.wd := bcd2bin_bin2bcd (by omega)
  have ed : bcd2bin t.snap.day = t.d := bcd2bin_bin2bcd (by omega)
  have emo : bcd2bin t.snap.month = t.mo := bcd2bin_bin2bcd (by omega)
  have ey : bcd2bin t.snap.year = t.y := bcd2bin_bin2bcd (by omega)
  unfold clockValid
  rw [Bool.and_eq_true, dateValid_iff, beq_iff_eq, ewd, ed, emo, ey]
  exact ⟨fun h => ⟨h.1.2, h.2⟩, fun h => ⟨⟨hvalid, h.1⟩, h.2⟩⟩

/-- The day after a valid date is valid, the weekday going on by one, but for the century's last. -/
theorem nextDate_midnight_valid {t : TimeNum} (ht : t.InRange) (hv : t.Valid)
    (hlast : ¬ (t.d = 31 ∧ t.mo = 12 ∧ t.y = 99)) : (nextDate t.midnight).Valid := by
  obtain ⟨hd, hwd⟩ := hv
  obtain ⟨hl28, hl31⟩ := lastday_range ht.mo1 ht.mo12 ht.y
  by_cases hin : t.d < lastday t.y t.mo
  · rw [nextDate_inside_month (t := t.midnight) hin]
    refine ⟨hin, ?_⟩
    show (t.wd + 1) % 7 = weekday t.y t.mo (t.d + 1)
    rw [weekday_next_day ht.y ht.mo1 ht.mo12 ht.d1 (by omega), hwd]
  have hend : t.d = lastday t.y t.mo := by omega
  by_cases hm : t.mo < 12
  · rw [nextDate_month_end (t := t.midnight) (Nat.le_of_not_lt hin) hm]
    have := lastday_range (m := t.mo + 1) (by omega) hm ht.y
    refine ⟨by show 1 ≤ lastday t.y (t.mo + 1); omega, ?_⟩
    show (t.wd + 1) % 7 = weekday t.y (t.mo + 1) 1
    rw [weekday_next_month ht.y ht.mo1 hm, hwd, hend]
  · have hm12 : t.mo = 12 := by have := ht.mo12; omega
    have h31 : lastday t.y t.mo = 31 := by
      rw [hm12, lastday_of_domain (by decide) (by decide) ht.y]
      rfl
    have hy : t.y < 99 := by have := ht.y; omega
    rw [nextDate_year_end (t := t.midnight) (Nat.le_of_not_lt hin) hm12 ht.y]
    have hyear : (t.y + 1) % 100 = t.y + 1 := Nat.mod_eq_of_lt (by omega)
    refine ⟨?_, ?_⟩
    · show 1 ≤ lastday ((t.y + 1) % 100) 1
      have := lastday_range (y := (t.y + 1) % 100) (m := 1) (by decide) (by decide) (by omega)
      omega
    · show (t.wd + 1) % 7 = weekday ((t.y + 1) % 100) 1 1
      rw [hyear, weekday_next_year hy, hwd, hend, hm12]

theorem nextSecond_valid {t : TimeNum} (ht : t.InRange) (hv : t.Valid)
    (hlast : ¬ (t.second = 86399 ∧ t.d = 31 ∧ t.mo = 12 ∧ t.y = 99)) : (nextSecond t).Valid := by
  by_cases hsec : t.second = 86399
  · rw [nextSecond_at_midnight ht hsec]
    exact nextDate_midnight_valid ht hv fun h => hlast ⟨hsec, h⟩
  · obtain ⟨s, mi, h, e, -⟩ := nextSecond_before_midnight ht hsec
    rw [e]
    exact hv

/-! ### On the words -/

/-- Every field is read from its own byte, so the words may be taken with word 3 as it is hard-wired. -/
theorem snap_timeOf_of_snapValid {w : ClockWords} (hw : snapValid (wordsSnap w) = true) :
    (timeOf w).InRange ∧ (timeOf w).snap = wordsSnap w := by
  have hyear : (packWord 0x00#8 (wordsField w .year)).extractLsb' 0 8 = wordsField w .year :=
    extract_lo_packWord ..
  have hsnap : wordsSnap { w with w3 := packWord 0x00#8 (wordsField w .year) } = wordsSnap w :=
    (Snap.mk.injEq ..).mpr ⟨rfl, rfl, rfl, rfl, rfl, rfl, hyear⟩
  have htime : timeOf { w with w3 := packWord 0x00#8 (wordsField w .year) } = timeOf w :=
    (TimeNum.mk.injEq ..).mpr ⟨rfl, rfl, rfl, rfl, rfl, rfl, congrArg bcd2bin hyear⟩
  have hvalid : wordsValid { w with w3 := packWord 0x00#8 (wordsField w .year) } = true :=
    wordsValid_iff.2 ⟨hsnap ▸ hw, extract_hi_packWord ..⟩
  exact ⟨htime ▸ inRange_timeOf hvalid, htime ▸ hsnap ▸ snap_timeOf hvalid⟩

/-- Settles O40: the date and the weekday are followed on the numbers; the exception is the edge after
Thursday 2099-12-31 23:59:59, which leaves weekday 5 where the formula has 6 (log 28). -/
theorem tickKeepsTheClockValidWithinTheCentury : Obligations.TickKeepsTheClockValidWithinTheCentury := by
  refine ⟨fun w hw hlast => ?_, ⟨0x5959#16, 0x0423#16, 0x1231#16, 0x0099#16⟩, by decide, by decide⟩
  have hsnap : snapValid (wordsSnap w) = true := by
    simp only [clockValid, dateValid, Bool.and_eq_true] at hw
    exact hw.1.1
  obtain ⟨ht, e⟩ := snap_timeOf_of_snapValid hsnap
  have hv : (timeOf w).Valid := (clockValid_snap ht).1 (e ▸ hw)
  have hnext : wordsSnap (advanceWords w) = (nextSecond (timeOf w)).snap := wordsSnap_wordsOf _
  rw [hnext]
  exact (clockValid_snap ht.nextSecond).2 (nextSecond_valid ht hv hlast)

end Sys2Proof.Machine
end

section
/-! What an instruction can do, said once (R27, R100, R102): a command of one step ends at once, and a
command of several is accepted or performs its numbered micro-step. Every invariant is then one lemma per
way to step, and one induction over the agenda's events carries it to the machine. -/

namespace Sys2Proof.Machine

/-! ### Commands and frames -/

theorem isCommand_of_decodeCommand {cmd : CmdWord} {pl : List Byte} {i : Instr}
    (h : decodeCommand cmd pl = .ok i) : isCommand i = true := by
  unfold decodeCommand decodeFields at h
  split at h <;> cases h <;> rfl

theorem not_isCommand_of_decodeFrame {bc : Bool} {fmt : WireFormat} {bytes : List Byte} {i : Instr}
    (h : decodeFrame bc fmt bytes = .ok i) : isCommand i = false := by
  unfold decodeFrame at h
  repeat' split at h
  all_goals cases h
  all_goals rfl

/-- A frame on the wire touches nothing but what is sent and what waits for the polls (R104; log 9). -/
theorem exec_of_not_isCommand {i : Instr} (hi : isCommand i = false) (s : State) :
    ∃ tx rx, exec i s = .next { s with tx := tx, rx := rx } :=
  match i, hi with
  | .req03 .., _ => ⟨_, _, rfl⟩
  | .req16 .., _ => ⟨_, _, rfl⟩
  | .rsp03 .., _ => ⟨_, _, rfl⟩
  | .rsp16 .., _ => ⟨_, _, rfl⟩

theorem State.carry_eq (s : State) (fmt : WireFormat) (bytes : List Byte) :
    ∃ tx rx, s.carry fmt bytes = .next { s with tx := tx, rx := rx } := by
  cases hd : decodeFrame s.params.wrByteCount fmt bytes with
  | ok i =>
    rw [State.carry_of_ok hd]
    exact exec_of_not_isCommand (not_isCommand_of_decodeFrame hd) s
  | error e =>
    rw [State.carry_of_error hd]
    split <;> exact ⟨_, _, rfl⟩

/-- A setter of one field (R221). -/
def IsSetter (i : Instr) : Prop :=
  ∃ a v, i = .setsec a v ∨ i = .setmin a v ∨ i = .sethour a v ∨ i = .setday a v ∨
    i = .setmon a v ∨ i = .setyear a v

/-! ### The ways to step -/

/-- What an instruction that is a command can do to a state, when it answers a next one. -/
inductive Ran (i : Instr) (s : State) : State → Prop
  /-- it ends with a status other than OK -/
  | failed (e : Status) : Ran i s (s.raise e)
  /-- it ends with a response and changes nothing else -/
  | answered (r : Word) (rb : List Byte) : Ran i s (s.done r rb false)
  /-- bytes become the buffer's content: as they are, or as a frame that verifies -/
  | loaded (f : List Byte) (kind : BufKind) (r : Word) (rb : List Byte) (hfit : f.length ≤ s.params.fbSize)
      (hkind : kind = .raw ∨ kind = .good ∧ verifyFrame f = true) :
      Ran i s ({ s with fb := Memory.setList s.fb 0 f, fblen := f.length, fbk := kind }.done r rb false)
  /-- the buffer's frame is tested and tagged (R140) -/
  | tagged (r : Word) (hempty : s.fbk ≠ .empty) (hspec : s.fbk ≠ .unspec) :
      Ran i s ({ s with fbk := if verifyFrame (s.fbBytes 0 s.fblen) then .good else .bad }.done r [] false)
  /-- a setter stores a field of `PRI` or `ALM`, and keeps it field-valid -/
  | set (p : Snap) (a : AlarmSnap) (r : Word) (w : Bool) (hi : IsSetter i)
      (hp : snapValid s.pri = true → snapValid p = true)
      (ha : alarmValid s.alm = true → alarmValid a = true) :
      Ran i s ({ s with pri := p, alm := a }.done r [] w)
  /-- a command of several steps is accepted, a transaction only if its request and response fit -/
  | accepted (hidle : s.seq = .idle) (hsteps : 1 ≤ microSteps i)
      (hfit : ∀ f n, transaction s.params i = some (f, n) → s.params.ok = true →
        f.length ≤ s.params.fbSize ∧ 5 ≤ n ∧ n ≤ s.params.fbSize) : Ran i s s.accept
  /-- a micro-step of a transaction, which ends with a response once the checksum is right -/
  | transacted {t : State} {cmd : CmdWord} {pl : List Byte} {k : Nat} {f : List Byte} {n : Nat}
      {ok : State → Result} (hbusy : s.seq = .busy cmd pl k) (hsteps : microSteps i = 5)
      (hi : transaction s.params i = some (f, n)) (hstep : s.xact k f n ok = .next t)
      (hverify : ∃ f', f = frame f')
      (hok : ∀ u, ok u = .next t → ∃ r rb, t = u.done r rb false) : Ran i s t
  /-- a micro-step of one of the four multi-step commands of the ClockKeeper -/
  | read {t : State} {cmd : CmdWord} {pl : List Byte} {k : Nat} (hi : i = .ckread)
      (hbusy : s.seq = .busy cmd pl k) (hstep : execCkread s = .next t) : Ran i s t
  | committed {t : State} {cmd : CmdWord} {pl : List Byte} {k : Nat} (hi : i = .ckcommit)
      (hbusy : s.seq = .busy cmd pl k) (hstep : execCkcommit s = .next t) : Ran i s t
  | alarmSet {t : State} {cmd : CmdWord} {pl : List Byte} {k : Nat} (hi : i = .setalm)
      (hbusy : s.seq = .busy cmd pl k) (hstep : execSetalm s = .next t) : Ran i s t
  | armed {t : State} {cmd : CmdWord} {pl : List Byte} {k : Nat} {m : BitVec 4} (hi : i = .armalm m)
      (hbusy : s.seq = .busy cmd pl k) (hstep : execArmalm m s = .next t) : Ran i s t

/-! ### Commands of one step -/

theorem Ran.of_buildFrame {i : Instr} {s t : State} {f : List Byte} (h : s.buildFrame (frame f) = .next t) :
    Ran i s t := by
  obtain ⟨hfit, rfl⟩ := State.buildFrame_next h
  exact .loaded _ _ _ _ hfit (.inr ⟨rfl, verifyFrame_frame f⟩)

theorem Ran.of_payload {i : Instr} {s t : State} {off w : Nat} {r : List Byte → Word}
    {rb : List Byte → List Byte}
    (h : s.payload off w (fun p => .next (s.done (r p) (rb p) false)) = .next t) : Ran i s t := by
  rcases State.payload_next h with ⟨-, rfl⟩ | ⟨-, -, rfl⟩ | ⟨-, -, -, hd⟩
  · exact .failed _
  · exact .failed _
  · cases hd
    exact .answered _ _

theorem Ran.of_setField {i : Instr} {s : State} {a : Byte} {xw : Nat × Bool} {f : Snap → Byte → Snap}
    {g : AlarmSnap → Byte → AlarmSnap} (hi : IsSetter i)
    (hf : a = 0#8 → snapValid s.pri = true → snapValid (f s.pri (bin2bcd xw.1)) = true)
    (hg : a = 1#8 → alarmValid s.alm = true → alarmValid (g s.alm (bin2bcd xw.1)) = true) :
    Ran i s (s.setField a xw f g) := by
  by_cases h0 : a = 0#8
  · rw [h0, State.setField_clk]
    exact .set _ s.alm _ _ hi (hf h0) id
  by_cases h1 : a = 1#8
  · rw [h1, State.setField_alm]
    exact .set s.pri _ _ _ hi id (hg h1)
  rw [State.setField_other h0 h1]
  exact .failed _

/-- A setter of a field whose wrapped value is always in range (R222 to R225). -/
theorem Ran.of_setField_legal {i : Instr} {s : State} {a : Byte} {xw : Nat × Bool} {f : Snap → Byte → Snap}
    {g : AlarmSnap → Byte → AlarmSnap} (fld : Field) (hi : IsSetter i)
    (hlo : (fieldBounds fld).1 ≤ xw.1) (hhi : xw.1 ≤ (fieldBounds fld).2)
    (hf : ∀ p b, f p b = snapSet p fld b)
    (hg : ∀ q b, alarmAsSnap (g q b) 0#8 = snapSet (alarmAsSnap q 0#8) fld b) :
    Ran i s (s.setField a xw f g) := by
  have hb := legalField_bin2bcd hlo hhi
  refine .of_setField hi (fun _ hp => ?_) (fun _ ha => ?_)
  · rw [hf]
    exact snapValid_snapSet hp hb
  · rw [alarmValid_iff, hg]
    exact snapValid_snapSet (alarmValid_iff.1 ha) hb

theorem Ran.of_setday {a v : Byte} {s t : State} (h : execSetday a v s = .next t) :
    Ran (.setday a v) s t := by
  cases h
  refine .of_setField ⟨a, v, by simp⟩ (fun h0 hp => ?_) (fun h1 ha => ?_)
  · rw [h0]
    exact (dateValid_iff.1 (dateValid_wrapDay hp v.toNat)).1
  · rw [h1]
    exact (dateValid_alarmAsSnap.1 (dateValid_wrapDay (alarmValid_iff.1 ha) v.toNat)).1

theorem Ran.of_setyear {a v : Byte} {s t : State} (h : execSetyear a v s = .next t) :
    Ran (.setyear a v) s t := by
  have hi : IsSetter (.setyear a v) := ⟨a, v, by simp⟩
  unfold execSetyear at h
  dsimp only at h
  split at h
  · cases h
    exact .set _ s.alm _ _ hi (fun hp => (dateValid_iff.1 (dateValid_wrap100 hp v.toNat)).1) id
  · split at h
    · cases h
      exact .set s.pri _ _ _ hi id fun ha =>
        (dateValid_alarmAsSnap.1 (dateValid_wrap100 (alarmValid_iff.1 ha) v.toNat)).1
    · cases h
      exact .failed _

theorem Ran.of_bldwr {i : Instr} {s t : State} {a : Byte} {b : Half} {pl : List Byte}
    (h : execBldwr a b pl s = .next t) : Ran i s t := by
  unfold execBldwr at h
  split at h
  · exact .of_buildFrame h
  · cases h
    exact .failed _

theorem Ran.of_seal {i : Instr} {s t : State} {pl : List Byte} (h : execSeal pl s = .next t) :
    Ran i s t := by
  unfold execSeal at h
  split at h
  · cases h
    exact .failed _
  · exact .of_buildFrame h

theorem Ran.of_verify {i : Instr} {s t : State} (h : execVerify s = .next t) : Ran i s t := by
  unfold execVerify at h
  split at h
  · cases h
    exact .failed _
  · next hk =>
    obtain ⟨-, hd⟩ := State.readFb_next h
    cases hd
    exact .tagged _ (fun he => hk (.inl he)) (fun hu => hk (.inr hu))

theorem Ran.of_ldfb {i : Instr} {s t : State} {pl : List Byte} (h : execLdfb pl s = .next t) :
    Ran i s t := by
  obtain ⟨hfit, hd⟩ := State.loadFb_next h
  cases hd
  exact .loaded _ _ _ _ hfit (.inl rfl)

theorem Ran.of_rdfb {i : Instr} {s t : State} (h : execRdfb s = .next t) : Ran i s t := by
  unfold execRdfb at h
  split at h
  · cases h
    exact .failed _
  · obtain ⟨-, hd⟩ := State.readFb_next h
    cases hd
    exact .answered _ _

theorem Ran.of_decstr {i : Instr} {s t : State} {a : Byte} {c : Half} (h : execDecstr a c s = .next t) :
    Ran i s t := by
  unfold execDecstr at h
  split at h
  · cases h
    exact .failed _
  · exact .of_payload h

theorem Ran.of_wkday {i : Instr} {s t : State} {y m d : Byte} (h : execWkday y m d s = .next t) :
    Ran i s t := by
  cases h
  split
  · exact .answered _ _
  · exact .failed _

theorem Ran.of_rdsnap {i : Instr} {s t : State} {a : Byte} (h : execRdsnap a s = .next t) : Ran i s t := by
  cases h
  split
  · exact .answered _ _
  split
  · exact .answered _ _
  split
  · exact .answered _ _
  · exact .failed _

/-! ### Transactions (R188, R190, R192) -/

/-- The constraints of R9 on the lengths of the buffer and of a write's response. -/
theorem Params.sizes_of_ok {P : Params} (hP : P.ok = true) :
    8 ≤ P.fbSize ∧ 1 ≤ P.pollBudget ∧ 5 ≤ P.wrRspLen ∧ P.wrRspLen ≤ P.fbSize := by
  simp only [Params.ok, Bool.and_eq_true, decide_eq_true_eq] at hP
  obtain ⟨⟨⟨⟨⟨⟨⟨hsize, hbudget⟩, hrsp5⟩, hrsp⟩, -⟩, -⟩, -⟩, -⟩ := hP
  exact ⟨hsize, hbudget, hrsp5, hrsp⟩

/-- The operand checks of a write request, said of its frame (R136, R190). -/
theorem length_writeRequest_le_of_fits {P : Params} {a : Byte} {b : Half} {pl : List Byte}
    (h : writeRequestFits P pl = true) : (writeRequest P.wrByteCount a b pl).length ≤ P.fbSize := by
  simp only [writeRequestFits, Bool.and_eq_true, decide_eq_true_eq] at h
  rw [length_writeRequest]
  exact h.1.2

theorem Ran.of_rdhold {a : Byte} {b c : Half} {s t : State} (h : execRdhold a b c s = .next t) :
    Ran (.rdhold a b c) s t := by
  unfold execRdhold at h
  split at h
  · next hidle =>
    cases h
    split
    · exact .failed _
    · next hlen =>
      refine .accepted hidle (by decide : 1 ≤ 5) fun f n hx hP => ?_
      cases hx
      exact ⟨by rw [length_readRequest]; exact (Params.sizes_of_ok hP).1, Nat.le_add_right _ _,
        Nat.le_of_not_lt hlen⟩
  · next hbusy =>
    refine .transacted hbusy rfl rfl h ⟨_, rfl⟩ fun u hu => ?_
    obtain ⟨-, hd⟩ := State.readFb_next hu
    cases hd
    exact ⟨_, _, rfl⟩

theorem Ran.of_writeMultiple {i : Instr} {a : Byte} {b : Half} {pl : List Byte} {s t : State}
    (hi : transaction s.params i = some (writeRequest s.params.wrByteCount a b pl, s.params.wrRspLen))
    (hsteps : microSteps i = 5) (h : s.writeMultiple a b pl = .next t) : Ran i s t := by
  unfold State.writeMultiple at h
  split at h
  · next hidle =>
    cases h
    split
    · next hfits =>
      refine .accepted hidle (by omega) fun f n hx hP => ?_
      rw [hi] at hx
      cases hx
      exact ⟨length_writeRequest_le_of_fits hfits, (Params.sizes_of_ok hP).2.2⟩
    · exact .failed _
  · next hbusy =>
    refine .transacted hbusy hsteps hi h ⟨_, rfl⟩ fun u hu => ?_
    cases hu
    exact ⟨_, _, rfl⟩

/-! ### Every command -/

/-- From Idle a multi-step command of the ClockKeeper is accepted; from Busy it does a micro-step. -/
theorem Ran.of_clockKeeper {i : Instr} {s t : State} {ex : State → Result} (hsteps : 1 ≤ microSteps i)
    (hi : ∀ P, transaction P i = none) (hidle : ∀ u, u.seq = .idle → ex u = .next u.accept)
    (hbusy : ∀ cmd pl k, s.seq = .busy cmd pl k → Ran i s t) (h : ex s = .next t) : Ran i s t := by
  cases hs : s.seq with
  | idle =>
    rw [hidle s hs] at h
    cases h
    exact .accepted hs hsteps fun f n hx => absurd hx (by simp [hi])
  | busy cmd pl k => exact hbusy cmd pl k hs

theorem exec_ran {i : Instr} {s t : State} (hi : isCommand i = true) (h : exec i s = .next t) :
    Ran i s t := by
  match i, hi, h with
  | .bldrd .., _, h => exact .of_buildFrame h
  | .bldwr .., _, h => exact .of_bldwr h
  | .seal .., _, h => exact .of_seal h
  | .verify, _, h => exact .of_verify h
  | .ldfb .., _, h => exact .of_ldfb h
  | .rdfb, _, h => exact .of_rdfb h
  | .crc16 .., _, h => cases h; exact .answered _ _
  | .decf32s .., _, h => exact .of_payload h
  | .deci32 .., _, h => exact .of_payload h
  | .decu16 .., _, h => exact .of_payload h
  | .decstr .., _, h => exact .of_decstr h
  | .decbcd6 .., _, h => exact .of_payload h
  | .rdhold .., _, h => exact .of_rdhold h
  | .wrmult .., _, h => exact .of_writeMultiple rfl rfl h
  | .unlock, _, h => exact .of_writeMultiple rfl rfl h
  | .ckread, _, h =>
    exact .of_clockKeeper (ex := execCkread) (by decide) (fun _ => rfl)
      (fun u hu => by unfold execCkread; rw [hu]) (fun _ _ _ hb => .read rfl hb h) h
  | .ckcommit, _, h =>
    exact .of_clockKeeper (ex := execCkcommit) (by decide) (fun _ => rfl)
      (fun u hu => by unfold execCkcommit; rw [hu]) (fun _ _ _ hb => .committed rfl hb h) h
  | .wkday .., _, h => exact .of_wkday h
  | .setsec a v, _, h =>
    cases h
    exact .of_setField_legal .sec ⟨a, v, by simp⟩ (Nat.zero_le _) (wrap60_le _) (fun _ _ => rfl) fun _ _ => rfl
  | .setmin a v, _, h =>
    cases h
    exact .of_setField_legal .min ⟨a, v, by simp⟩ (Nat.zero_le _) (wrap60_le _) (fun _ _ => rfl) fun _ _ => rfl
  | .sethour a v, _, h =>
    cases h
    exact .of_setField_legal .hour ⟨a, v, by simp⟩ (Nat.zero_le _) (wrap24_le _) (fun _ _ => rfl) fun _ _ => rfl
  | .setday .., _, h => exact .of_setday h
  | .setmon a v, _, h =>
    cases h
    exact .of_setField_legal .month ⟨a, v, by simp⟩ (wrapMonth_range _).1 (wrapMonth_range _).2
      (fun _ _ => rfl) fun _ _ => rfl
  | .setyear .., _, h => exact .of_setyear h
  | .setalm, _, h =>
    exact .of_clockKeeper (ex := execSetalm) (by decide) (fun _ => rfl)
      (fun u hu => by unfold execSetalm; rw [hu]) (fun _ _ _ hb => .alarmSet rfl hb h) h
  | .armalm m, _, h =>
    exact .of_clockKeeper (ex := execArmalm m) (by simp [microSteps]) (fun _ => rfl)
      (fun u hu => by unfold execArmalm; rw [hu]) (fun _ _ _ hb => .armed rfl hb h) h
  | .rdsnap .., _, h => exact .of_rdsnap h
  | .rdstat, _, h => cases h; exact .answered _ _

/-! ### Every step of the machine -/

/-- `i` is the command the sequencer runs in `s`: the one it accepts from the port, or the one in
progress. -/
def State.Runs (s : State) (i : Instr) : Prop :=
  (s.seq = .idle ∧ decodeCommand s.portCmd s.portPl = .ok i) ∨
  ∃ cmd pl k, s.seq = .busy cmd pl k ∧ decodeCommand cmd pl = .ok i

/-- What to prove of a predicate so that every step keeps it. -/
structure KeptBySteps (I : State → Prop) : Prop where
  /-- the unspecified becomes unspecified anew -/
  renew : ∀ s, I s → I s.renewFree
  /-- what stands around the block: the agenda, the port, the wire -/
  around : ∀ s agenda cmd pl tx rx, I s →
    I { s with agenda := agenda, portCmd := cmd, portPl := pl, tx := tx, rx := rx }
  htick : ∀ s, I s → I s.htick
  almack : ∀ s, I s → I s.almack
  reset : ∀ s, I s → I s.resetBlock
  /-- an unlisted `op`, with no command in progress -/
  illegal : ∀ s, s.running = none → I s → I (s.raise .illegalOp)
  /-- a command, accepted from the port or in progress -/
  runs : ∀ i s t, s.Runs i → isCommand i = true → exec i s = .next t → I s → I t

theorem KeptBySteps.micro {I : State → Prop} (hI : KeptBySteps I) {s t : State} (hs : I s)
    (h : s.micro = .next t) : I t := by
  unfold State.micro at h
  split at h
  · cases h
    exact hs
  · next cmd pl k hbusy =>
    split at h
    · next i hd =>
      exact hI.runs i s t (.inr ⟨cmd, pl, k, hbusy, hd⟩) (isCommand_of_decodeCommand hd) h hs
    · next e hd =>
      cases h
      refine hI.illegal s ?_ hs
      unfold State.running
      simp only [hbusy, hd]

theorem KeptBySteps.issue {I : State → Prop} (hI : KeptBySteps I) {s t : State} {cmd : CmdWord}
    {pl : List Byte} (hidle : s.seq = .idle) (hs : I s) (h : s.issue cmd pl = .next t) : I t := by
  have hport : I { s with portCmd := cmd, portPl := pl } := hI.around s s.agenda cmd pl s.tx s.rx hs
  unfold State.issue at h
  split at h
  · cases h
    refine hI.illegal _ ?_ hport
    unfold State.running
    simp only [hidle]
  · next i hd =>
    split at h
    · exact hI.runs i { s with portCmd := cmd, portPl := pl } t (.inl ⟨hidle, hd⟩)
        (isCommand_of_decodeCommand hd) h hport
    · cases h

theorem KeptBySteps.step {I : State → Prop} (hI : KeptBySteps I) {s t : State} (hs : I s)
    (h : step s = .next t) : I t := by
  have hfree : I s.renewFree := hI.renew s hs
  have hrest : ∀ rest, I { s.renewFree with agenda := rest } := fun rest =>
    hI.around s.renewFree rest s.portCmd s.portPl s.tx s.rx hfree
  rcases step_cases s with ⟨-, e⟩ | ⟨rest, -, e⟩ | ⟨rest, -, e⟩ | ⟨rest, -, e⟩ | ⟨rest, -, e⟩ |
    ⟨fmt, bytes, rest, -, e⟩ | ⟨cmd, pl, rest, -, hidle, e⟩ | ⟨cmd, pl, rest, -, -, e⟩ <;> rw [e] at h
  · exact hI.micro hfree h
  · exact hI.micro (hrest rest) h
  · cases h; exact hI.htick _ (hrest rest)
  · cases h; exact hI.almack _ (hrest rest)
  · cases h; exact hI.reset _ (hrest rest)
  · obtain ⟨tx, rx, e'⟩ := State.carry_eq { s.renewFree with agenda := rest } fmt bytes
    rw [e'] at h
    cases h
    exact hI.around _ rest s.portCmd s.portPl tx rx (hrest rest)
  · exact hI.issue (s := { s.renewFree with agenda := rest }) hidle (hrest rest) h
  · exact hI.micro hfree h

end Sys2Proof.Machine
end

section
/-! Where the sequencer stands after a command's step (R27, R335), and the response of one that has
ended (R22 to R24, R261). -/

namespace Sys2Proof.Machine

/-- After a step of `i` the command has ended, or has just been accepted, or stands at another of its
micro-steps. -/
inductive Moved (i : Instr) (s t : State) : Prop
  | ended (hseq : t.seq = .idle) (hfail : t.st ≠ .ok → t.r = 0#32 ∧ t.w = false ∧ t.rb = [])
      (hwrap : t.w = true → IsSetter i)
  | accepted (hidle : s.seq = .idle) (hsteps : 1 ≤ microSteps i) (hseq : t.seq = .busy s.portCmd s.portPl 1)
  | continued {cmd : CmdWord} {pl : List Byte} {k k' : Nat} (hbusy : s.seq = .busy cmd pl k)
      (hseq : t.seq = .busy cmd pl k') (hpos : 1 ≤ k') (hsteps : k' ≤ microSteps i)

theorem Moved.of_done {i : Instr} {s : State} (u : State) (r : Word) (rb : List Byte) :
    Moved i s (u.done r rb false) :=
  .ended rfl (fun h => absurd rfl h) nofun

theorem Moved.of_raise {i : Instr} {s : State} (u : State) (e : Status) : Moved i s (u.raise e) :=
  .ended rfl (fun _ => ⟨rfl, rfl, rfl⟩) nofun

theorem State.goto_seq_of {s u : State} {cmd : CmdWord} {pl : List Byte} {k k' : Nat} (hu : u.seq = s.seq)
    (hbusy : s.seq = .busy cmd pl k) : (u.goto k').seq = .busy cmd pl k' :=
  State.goto_seq (hu.trans hbusy) k'

theorem Moved.of_goto {i : Instr} {s u : State} {cmd : CmdWord} {pl : List Byte} {k k' : Nat}
    (hbusy : s.seq = .busy cmd pl k) (hu : u.seq = s.seq) (hpos : 1 ≤ k') (hsteps : k' ≤ microSteps i) :
    Moved i s (u.goto k') :=
  .continued hbusy (State.goto_seq_of hu hbusy) hpos hsteps

/-! ### Micro-steps -/

theorem Moved.of_xact {i : Instr} {s t : State} {cmd : CmdWord} {pl : List Byte} {k : Nat} {f : List Byte}
    {n : Nat} {ok : State → Result} (hbusy : s.seq = .busy cmd pl k) (hsteps : microSteps i = 5)
    (h : s.xact k f n ok = .next t) (hok : ∀ u, ok u = .next t → ∃ r rb, t = u.done r rb false) :
    Moved i s t := by
  rcases State.xact_next h with ⟨-, h⟩ | ⟨-, h⟩ | ⟨-, rfl⟩ | ⟨hk, h⟩ | ⟨-, h⟩
  · obtain ⟨-, rfl⟩ := State.xactBuild_next h
    exact .of_goto hbusy rfl (by decide) (by omega)
  · rcases State.xactSend_next h with ⟨-, -, rfl⟩ | ⟨-, rfl⟩
    · exact .of_goto hbusy rfl (by split <;> decide) (by split <;> omega)
    · exact .of_goto hbusy rfl (by decide) (by omega)
  · exact .of_goto hbusy rfl (by decide) (by omega)
  · rcases State.xactPoll_cases s with ⟨b, -, e⟩ | ⟨-, e⟩ <;> rw [e] at h
    · obtain ⟨-, ⟨-, rfl⟩ | ⟨-, rfl⟩⟩ := State.xactByte_next h
      · exact .of_goto hbusy rfl (by decide) (by omega)
      · exact .continued hbusy hbusy (by omega) (by omega)
    · rcases State.xactNone_cases s.renewFree.rxAdvance with ⟨-, e⟩ | ⟨-, e⟩ <;> rw [e] at h <;> cases h
      · exact .of_raise _ _
      · exact .continued hbusy hbusy (by omega) (by omega)
  · obtain ⟨-, ⟨-, h⟩ | ⟨-, rfl⟩⟩ := State.xactCheck_next h
    · obtain ⟨r, rb, rfl⟩ := hok _ h
      exact .of_done _ _ _
    · exact .of_raise _ _

/-- The micro-steps of CKREAD (R210): a field into `PRI`, a field into `CHK`, or the comparison. -/
theorem execCkread_next {s t : State} {cmd : CmdWord} {pl : List Byte} {k : Nat}
    (hbusy : s.seq = .busy cmd pl k) (h : execCkread s = .next t) :
    (∃ f, k < 14 ∧ t = (s.readPri f).goto (k + 1)) ∨ (∃ f, k < 14 ∧ t = (s.readChk f).goto (k + 1)) ∨
    t = (s.readChk .year).endRead := by
  unfold execCkread at h
  split at h
  case h_1 hidle => exact nomatch hbusy.symm.trans hidle
  cases hbusy.symm.trans ‹_›
  split at h <;> cases h
  case h_1 | h_2 | h_3 | h_4 | h_5 | h_6 | h_7 => exact .inl ⟨_, by decide, rfl⟩
  case h_8 | h_9 | h_10 | h_11 | h_12 | h_13 => exact .inr (.inl ⟨_, by decide, rfl⟩)
  case h_14 => exact .inr (.inr rfl)

theorem State.endRead_cases (s : State) :
    s.endRead = s.done 7#32 (snapBytes s.pri) false ∨ s.endRead = s.raise .tornRead := by
  unfold State.endRead
  split
  · exact .inl rfl
  · exact .inr rfl

theorem Moved.of_ckread {s t : State} {cmd : CmdWord} {pl : List Byte} {k : Nat}
    (hbusy : s.seq = .busy cmd pl k) (h : execCkread s = .next t) : Moved .ckread s t := by
  rcases execCkread_next hbusy h with ⟨f, hk, rfl⟩ | ⟨f, hk, rfl⟩ | rfl
  · exact .of_goto hbusy rfl (Nat.le_add_left _ _) hk
  · exact .of_goto hbusy rfl (Nat.le_add_left _ _) hk
  · rcases State.endRead_cases (s.readChk .year) with e | e <;> rw [e]
    · exact .of_done _ _ _
    · exact .of_raise _ _

theorem Moved.of_ckcommit {s t : State} {cmd : CmdWord} {pl : List Byte} {k : Nat}
    (hbusy : s.seq = .busy cmd pl k) (h : execCkcommit s = .next t) : Moved .ckcommit s t := by
  unfold execCkcommit at h
  split at h
  case h_1 hidle => exact nomatch hbusy.symm.trans hidle
  cases hbusy.symm.trans ‹_›
  split at h <;> cases h
  case h_10 => exact .of_done _ _ _
  all_goals exact .of_goto hbusy (by simp) (by decide) (by decide)

theorem Moved.of_setalm {s t : State} {cmd : CmdWord} {pl : List Byte} {k : Nat}
    (hbusy : s.seq = .busy cmd pl k) (h : execSetalm s = .next t) : Moved .setalm s t := by
  unfold execSetalm at h
  split at h
  case h_1 hidle => exact nomatch hbusy.symm.trans hidle
  cases hbusy.symm.trans ‹_›
  split at h <;> cases h
  case h_5 => exact .of_done _ _ _
  all_goals exact .of_goto hbusy rfl (by decide) (by decide)

/-- The micro-steps of ARMALM (R232): a mask refused, a mask stored, the alarm enabled. -/
theorem execArmalm_next {s t : State} {cmd : CmdWord} {pl : List Byte} {k : Nat} {m : BitVec 4}
    (hbusy : s.seq = .busy cmd pl k) (h : execArmalm m s = .next t) :
    t = s.raise .badArg ∨
    m.toNat ≤ 9 ∧ t = { s with alcfg := setAmask s.alcfg m }.goto 2 ∨
    t = { s with alcfg := setAlrmen s.alcfg true }.done 0#32 [] false := by
  unfold execArmalm at h
  split at h
  case h_1 hidle => exact nomatch hbusy.symm.trans hidle
  split at h
  · split at h <;> cases h
    · exact .inl rfl
    · exact .inr (.inl ⟨by omega, rfl⟩)
  · cases h
    exact .inr (.inr rfl)
  · cases h

theorem Moved.of_armalm {s t : State} {cmd : CmdWord} {pl : List Byte} {k : Nat} {m : BitVec 4}
    (hbusy : s.seq = .busy cmd pl k) (h : execArmalm m s = .next t) : Moved (.armalm m) s t := by
  rcases execArmalm_next hbusy h with rfl | ⟨-, rfl⟩ | rfl
  · exact .of_raise _ _
  · exact .of_goto hbusy rfl (by decide) (by simp [microSteps])
  · exact .of_done _ _ _

/-! ### Every command -/

theorem Ran.moved {i : Instr} {s t : State} (h : Ran i s t) : Moved i s t := by
  cases h with
  | failed | answered | loaded | tagged => exact .ended rfl (by simp) (by simp)
  | set _ _ _ _ hi => exact .ended rfl (fun h => absurd rfl h) (fun _ => hi)
  | accepted hidle hsteps => exact .accepted hidle hsteps rfl
  | transacted hbusy hsteps _ hstep _ hok => exact .of_xact hbusy hsteps hstep hok
  | read hi hbusy hstep => exact hi ▸ .of_ckread hbusy hstep
  | committed hi hbusy hstep => exact hi ▸ .of_ckcommit hbusy hstep
  | alarmSet hi hbusy hstep => exact hi ▸ .of_setalm hbusy hstep
  | armed hi hbusy hstep => exact hi ▸ .of_armalm hbusy hstep

/-- Settles O43: a command that has ended did so by `done` or by `raise`, and only a setter passes a
wrap to `done`. -/
theorem failuresReturnNothing : Obligations.FailuresReturnNothing := by
  intro i s t hi h hidle
  cases (exec_ran hi h).moved with
  | ended _ hfail hwrap => exact ⟨hfail, hwrap⟩
  | accepted _ _ hseq => simp [hidle] at hseq
  | continued _ hseq => simp [hidle] at hseq

/-! ### The command in progress -/

theorem State.running_of_idle {s : State} (h : s.seq = .idle) : s.running = none := by
  unfold State.running
  simp only [h]

theorem State.running_of_busy {s : State} {cmd : CmdWord} {pl : List Byte} {k : Nat} {i : Instr}
    (h : s.seq = .busy cmd pl k) (hd : decodeCommand cmd pl = .ok i) : s.running = some (i, k) := by
  unfold State.running
  simp only [h, hd]

theorem State.running_congr {s t : State} (h : t.seq = s.seq) : t.running = s.running := by
  unfold State.running
  rw [h]

theorem State.Runs.of_idle {s : State} {i : Instr} (hr : s.Runs i) (h : s.seq = .idle) :
    decodeCommand s.portCmd s.portPl = .ok i := by
  rcases hr with ⟨-, hd⟩ | ⟨cmd, pl, k, hs, -⟩
  · exact hd
  · rw [h] at hs
    cases hs

theorem State.Runs.of_busy {s : State} {i : Instr} {cmd : CmdWord} {pl : List Byte} {k : Nat}
    (hr : s.Runs i) (h : s.seq = .busy cmd pl k) : decodeCommand cmd pl = .ok i := by
  rcases hr with ⟨hs, -⟩ | ⟨cmd', pl', k', hs, hd⟩
  · rw [h] at hs
    cases hs
  · rw [h] at hs
    cases hs
    exact hd

theorem State.Runs.running {s : State} {i : Instr} {cmd : CmdWord} {pl : List Byte} {k : Nat}
    (hr : s.Runs i) (h : s.seq = .busy cmd pl k) : s.running = some (i, k) :=
  State.running_of_busy h (hr.of_busy h)

/-- The command in progress after a step of `i` is `i`, or none is. -/
theorem Moved.running {i : Instr} {s t : State} (h : Moved i s t) (hr : s.Runs i) :
    t.running = none ∨ ∃ k, 1 ≤ k ∧ k ≤ microSteps i ∧ t.running = some (i, k) := by
  cases h with
  | ended hseq => exact .inl (State.running_of_idle hseq)
  | accepted hidle hsteps hseq =>
    exact .inr ⟨1, Nat.le_refl 1, hsteps, State.running_of_busy hseq (hr.of_idle hidle)⟩
  | continued hbusy hseq hpos hsteps =>
    exact .inr ⟨_, hpos, hsteps, State.running_of_busy hseq (hr.of_busy hbusy)⟩

/-! ### The sequencer's invariant -/

theorem State.seqOk_of_idle {s : State} (h : s.seq = .idle) : s.seqOk := by
  unfold State.seqOk
  simp only [h]

theorem State.seqOk_of_busy {s : State} {cmd : CmdWord} {pl : List Byte} {k : Nat} {i : Instr}
    (h : s.seq = .busy cmd pl k) (hd : decodeCommand cmd pl = .ok i) (hpos : 1 ≤ k)
    (hsteps : k ≤ microSteps i) : s.seqOk := by
  unfold State.seqOk
  simp only [h, hd]
  exact ⟨hpos, hsteps⟩

theorem State.seqOk_congr {s t : State} (h : t.seq = s.seq) (hs : s.seqOk) : t.seqOk := by
  unfold State.seqOk
  rwa [h]

theorem Moved.seqOk {i : Instr} {s t : State} (h : Moved i s t) (hr : s.Runs i) : t.seqOk := by
  cases h with
  | ended hseq => exact State.seqOk_of_idle hseq
  | accepted hidle hsteps hseq => exact State.seqOk_of_busy hseq (hr.of_idle hidle) (Nat.le_refl 1) hsteps
  | continued hbusy hseq hpos hsteps => exact State.seqOk_of_busy hseq (hr.of_busy hbusy) hpos hsteps

theorem keptBySteps_seqOk : KeptBySteps State.seqOk where
  renew _ hs := State.seqOk_congr rfl hs
  around _ _ _ _ _ _ hs := State.seqOk_congr rfl hs
  htick s hs := State.seqOk_congr s.htick_seq hs
  almack s hs := State.seqOk_congr s.almack_seq hs
  reset _ _ := State.seqOk_of_idle rfl
  illegal _ _ _ := State.seqOk_of_idle rfl
  runs _ _ _ hr hi h _ := (exec_ran hi h).moved.seqOk hr

/-- Settles O57. -/
theorem stepKeepsSequencerLegal : Obligations.StepKeepsSequencerLegal :=
  fun _ _ hs h => keptBySteps_seqOk.step hs h

end Sys2Proof.Machine
end

section
/-! The clock's half of the state: `PRI`, `CHK`, `ALM`, the time and alarm registers, `ALCFG` and the
lock. Only the setters, the four multi-step commands of the ClockKeeper and the events write it, so its
invariants (R34, R38, R214) are about these alone. -/

namespace Sys2Proof.Machine

/-! ### What the buffer's half of a step leaves alone -/

/-- The registers that R34 is about, and the parameters. -/
structure ClockRegs where
  pri : Snap
  chk : Snap
  alm : AlarmSnap
  rtcw : ClockWords
  alrmw : ClockWords
  params : Params

/-- Those, the alarm configuration and the lock. -/
structure ClockSide where
  regs : ClockRegs
  alcfg : BitVec 8
  wren : Bool
  keyst : BitVec 2
  irqinh : Bool

def State.clockRegs (s : State) : ClockRegs := ⟨s.pri, s.chk, s.alm, s.rtcw, s.alrmw, s.params⟩

def State.clockSide (s : State) : ClockSide := ⟨s.clockRegs, s.alcfg, s.wren, s.keyst, s.irqinh⟩

@[simp] theorem State.goto_clockSide (s : State) (k : Nat) : (s.goto k).clockSide = s.clockSide := by
  unfold State.goto
  split <;> rfl

theorem State.xact_clockSide {s t : State} {k : Nat} {f : List Byte} {n : Nat} {ok : State → Result}
    (h : s.xact k f n ok = .next t) (hok : ∀ u, ok u = .next t → ∃ r rb, t = u.done r rb false) :
    t.clockSide = s.clockSide := by
  rcases State.xact_next h with ⟨-, h⟩ | ⟨-, h⟩ | ⟨-, rfl⟩ | ⟨-, h⟩ | ⟨-, h⟩
  · obtain ⟨-, rfl⟩ := State.xactBuild_next h
    exact State.goto_clockSide ..
  · rcases State.xactSend_next h with ⟨-, -, rfl⟩ | ⟨-, rfl⟩ <;> exact State.goto_clockSide ..
  · exact State.goto_clockSide ..
  · rcases State.xactPoll_cases s with ⟨b, -, e⟩ | ⟨-, e⟩ <;> rw [e] at h
    · obtain ⟨-, ⟨-, rfl⟩ | ⟨-, rfl⟩⟩ := State.xactByte_next h
      · exact State.goto_clockSide ..
      · rfl
    · rcases State.xactNone_cases s.renewFree.rxAdvance with ⟨-, e⟩ | ⟨-, e⟩ <;> rw [e] at h <;> cases h <;> rfl
  · obtain ⟨-, ⟨-, h⟩ | ⟨-, rfl⟩⟩ := State.xactCheck_next h
    · obtain ⟨r, rb, rfl⟩ := hok _ h
      rfl
    · rfl

@[simp] theorem State.goto_clockRegs (s : State) (k : Nat) : (s.goto k).clockRegs = s.clockRegs :=
  congrArg ClockSide.regs (State.goto_clockSide s k)

theorem State.clockOk_congr {s t : State} (h : t.clockRegs = s.clockRegs) (hs : s.clockOk) : t.clockOk :=
  (congrArg (fun c : ClockRegs => snapValid c.pri = true ∧ snapValid c.chk = true ∧ alarmValid c.alm = true ∧
    wordsValid c.rtcw = true ∧ wordsValid c.alrmw = true ∧ wordsValid c.params.resetTime = true) h).mpr hs

theorem State.alcfgOk_congr {s t : State} (h : t.alcfg = s.alcfg) (hs : s.alcfgOk) : t.alcfgOk := by
  unfold State.alcfgOk
  rwa [h]

/-! ### The alarm configuration (R38) -/

theorem setAlrmen_legal (cfg : BitVec 8) (on : Bool) :
    (setAlrmen cfg on).extractLsb' 4 3 = cfg.extractLsb' 4 3 ∧ amask (setAlrmen cfg on) = amask cfg := by
  revert cfg on
  decide

theorem setAmask_legal (cfg : BitVec 8) (m : BitVec 4) :
    (setAmask cfg m).extractLsb' 4 3 = cfg.extractLsb' 4 3 ∧ amask (setAmask cfg m) = m := by
  unfold setAmask amask
  constructor <;> ext i hi
  · have hcases : i = 0 ∨ i = 1 ∨ i = 2 := by omega
    rcases hcases with rfl | rfl | rfl <;> simp
  · have hcases : i = 0 ∨ i = 1 ∨ i = 2 ∨ i = 3 := by omega
    rcases hcases with rfl | rfl | rfl | rfl <;> simp

/-- Enabling and disabling the alarm keeps the configuration legal. -/
theorem State.alcfgOk_of_setAlrmen {s t : State} {on : Bool} (h : t.alcfg = setAlrmen s.alcfg on)
    (hs : s.alcfgOk) : t.alcfgOk := by
  obtain ⟨hreserved, hmask⟩ := setAlrmen_legal s.alcfg on
  unfold State.alcfgOk
  rwa [h, hreserved, hmask]

theorem State.compareAlarm_alcfg (s : State) (edge : Bool) :
    (s.compareAlarm edge).alcfg = s.alcfg ∨ (s.compareAlarm edge).alcfg = setAlrmen s.alcfg false := by
  unfold State.compareAlarm
  split
  · exact .inr rfl
  · exact .inl rfl

theorem State.htick_alcfg (s : State) :
    s.htick.alcfg = s.alcfg ∨ s.htick.alcfg = setAlrmen s.alcfg false := by
  unfold State.htick
  split <;> exact State.compareAlarm_alcfg ..

theorem State.almack_alcfg (s : State) :
    s.almack.alcfg = s.alcfg ∨ s.almack.alcfg = setAlrmen s.alcfg true := by
  unfold State.almack
  split
  · exact .inr rfl
  · exact .inl rfl

theorem execCkread_alcfg {s t : State} {cmd : CmdWord} {pl : List Byte} {k : Nat}
    (hbusy : s.seq = .busy cmd pl k) (h : execCkread s = .next t) : t.alcfg = s.alcfg := by
  rcases execCkread_next hbusy h with ⟨f, -, rfl⟩ | ⟨f, -, rfl⟩ | rfl
  · exact State.goto_alcfg ..
  · exact State.goto_alcfg ..
  · rcases State.endRead_cases (s.readChk .year) with e | e <;> rw [e] <;> rfl

theorem execCkcommit_alcfg {s t : State} (h : execCkcommit s = .next t) : t.alcfg = s.alcfg := by
  unfold execCkcommit at h
  split at h
  · cases h
    rfl
  · split at h <;> cases h <;> simp

/-- SETALM first disables the alarm and then leaves `ALCFG` alone (R230). -/
theorem execSetalm_alcfg {s t : State} (h : execSetalm s = .next t) :
    t.alcfg = s.alcfg ∨ t.alcfg = setAlrmen s.alcfg false := by
  unfold execSetalm at h
  split at h
  · cases h
    exact .inl rfl
  · split at h <;> cases h
    case h_1 => exact .inr (State.goto_alcfg ..)
    all_goals exact .inl (by simp)

theorem Ran.alcfgOk {i : Instr} {s t : State} (h : Ran i s t) (hs : s.alcfgOk) : t.alcfgOk := by
  cases h with
  | failed | answered | loaded | tagged | set | accepted => exact State.alcfgOk_congr rfl hs
  | transacted _ _ _ hstep _ hok =>
    exact State.alcfgOk_congr (congrArg ClockSide.alcfg (State.xact_clockSide hstep hok)) hs
  | read _ hbusy hstep => exact State.alcfgOk_congr (execCkread_alcfg hbusy hstep) hs
  | committed _ _ hstep => exact State.alcfgOk_congr (execCkcommit_alcfg hstep) hs
  | alarmSet _ _ hstep =>
    exact (execSetalm_alcfg hstep).elim (State.alcfgOk_congr · hs) (State.alcfgOk_of_setAlrmen · hs)
  | @armed _ _ _ _ m _ hbusy hstep =>
    rcases execArmalm_next hbusy hstep with rfl | ⟨hm, rfl⟩ | rfl
    · exact State.alcfgOk_congr rfl hs
    · obtain ⟨hreserved, hmask⟩ := setAmask_legal s.alcfg m
      unfold State.alcfgOk
      rw [State.goto_alcfg, hreserved, hmask]
      exact ⟨hs.1, hm⟩
    · exact State.alcfgOk_of_setAlrmen rfl hs

theorem keptBySteps_alcfgOk : KeptBySteps State.alcfgOk where
  renew _ hs := State.alcfgOk_congr rfl hs
  around _ _ _ _ _ _ hs := State.alcfgOk_congr rfl hs
  htick s hs := s.htick_alcfg.elim (State.alcfgOk_congr · hs) (State.alcfgOk_of_setAlrmen · hs)
  almack s hs := s.almack_alcfg.elim (State.alcfgOk_congr · hs) (State.alcfgOk_of_setAlrmen · hs)
  reset s _ := State.resetOf_alcfgOk s.params
  illegal _ _ hs := State.alcfgOk_congr rfl hs
  runs _ _ _ _ hi h hs := (exec_ran hi h).alcfgOk hs

/-- Settles O54: `ALRMEN` is written alone, and ARMALM stores no mask above 9. -/
theorem stepKeepsAlcfgLegal : Obligations.StepKeepsAlcfgLegal :=
  fun _ _ hs h => keptBySteps_alcfgOk.step hs h

/-! ### Field-valid registers (R34) -/

theorem State.clockOk.readPri {s : State} (hs : s.clockOk) (f : Field) : (s.readPri f).clockOk := by
  obtain ⟨hpri, hchk, halm, hrtcw, hrest⟩ := hs
  exact ⟨snapValid_snapSet hpri (legalField_wordsField hrtcw f), hchk, halm, hrtcw, hrest⟩

theorem State.clockOk.readChk {s : State} (hs : s.clockOk) (f : Field) : (s.readChk f).clockOk := by
  obtain ⟨hpri, hchk, halm, hrtcw, hrest⟩ := hs
  exact ⟨hpri, snapValid_snapSet hchk (legalField_wordsField hrtcw f), halm, hrtcw, hrest⟩

/-- A word goes to `RTCW` from two legal fields, or is dropped while `WREN = 0`. -/
theorem State.clockOk.writeRtcw {s : State} (hs : s.clockOk) {i : Fin 4} {hi lo : Byte}
    (hb : LegalWord i hi lo) : (s.writeRtcw i (packWord hi lo)).clockOk := by
  obtain ⟨hpri, hchk, halm, hrtcw, hrest⟩ := hs
  unfold State.writeRtcw
  split
  · exact ⟨hpri, hchk, halm, wordsValid_writeWord hrtcw hb, hrest⟩
  · exact ⟨hpri, hchk, halm, hrtcw, hrest⟩

theorem State.clockOk.writeAlrmw {s : State} (hs : s.clockOk) {i : Fin 4} {hi lo : Byte}
    (hb : LegalWord i hi lo) : (s.writeAlrmw i (packWord hi lo)).clockOk := by
  obtain ⟨hpri, hchk, halm, hrtcw, halrmw, hreset⟩ := hs
  exact ⟨hpri, hchk, halm, hrtcw, wordsValid_writeWord halrmw hb, hreset⟩

theorem State.clockOk.goto {s : State} (hs : s.clockOk) (k : Nat) : (s.goto k).clockOk :=
  State.clockOk_congr (State.goto_clockRegs s k) hs

theorem execCkread_clockOk {s t : State} {cmd : CmdWord} {pl : List Byte} {k : Nat}
    (hbusy : s.seq = .busy cmd pl k) (h : execCkread s = .next t) (hs : s.clockOk) : t.clockOk := by
  rcases execCkread_next hbusy h with ⟨f, -, rfl⟩ | ⟨f, -, rfl⟩ | rfl
  · exact (hs.readPri f).goto _
  · exact (hs.readChk f).goto _
  · have hlast : (s.readChk .year).clockOk := hs.readChk .year
    rcases State.endRead_cases (s.readChk .year) with e | e <;> rw [e] <;> exact State.clockOk_congr rfl hlast

theorem execCkcommit_clockOk {s t : State} (h : execCkcommit s = .next t) (hs : s.clockOk) :
    t.clockOk := by
  have hpri := hs.1
  have hf := snapValid_iff_legal.1 hpri
  unfold execCkcommit at h
  split at h
  · cases h
    exact hs
  · split at h <;> cases h
    case h_1 =>
      have hset : State.clockOk { s with
          pri := snapSet s.pri .weekday (weekdayByte s.pri.year s.pri.month s.pri.day)
          irqinh := true } :=
        ⟨snapValid_snapSet hpri (legalField_weekdayByte hpri), hs.2⟩
      exact hset.goto 2
    case h_6 => exact (hs.writeRtcw (i := 3) ⟨rfl, hf .year⟩).goto _
    case h_7 => exact (hs.writeRtcw (i := 2) ⟨hf .month, hf .day⟩).goto _
    case h_8 => exact (hs.writeRtcw (i := 1) ⟨hf .weekday, hf .hour⟩).goto _
    case h_9 => exact (hs.writeRtcw (i := 0) ⟨hf .min, hf .sec⟩).goto _
    case h_10 => exact State.clockOk_congr rfl hs
    all_goals exact State.clockOk_congr (State.goto_clockRegs ..) hs

theorem execSetalm_clockOk {s t : State} (h : execSetalm s = .next t) (hs : s.clockOk) :
    t.clockOk := by
  have halm : snapValid (alarmAsSnap s.alm 0#8) = true := alarmValid_iff.1 hs.2.2.1
  have hf := snapValid_iff_legal.1 halm
  unfold execSetalm at h
  split at h
  · cases h
    exact hs
  · split at h <;> cases h
    case h_1 => exact State.clockOk_congr (State.goto_clockRegs ..) hs
    case h_2 => exact (hs.writeAlrmw (i := 3) ⟨rfl, hf .year⟩).goto _
    case h_3 => exact (hs.writeAlrmw (i := 2) ⟨hf .month, hf .day⟩).goto _
    case h_4 => exact (hs.writeAlrmw (i := 1) ⟨legalField_weekdayByte halm, hf .hour⟩).goto _
    case h_5 =>
      have hlast : (s.writeAlrmw 0 (packWord s.alm.min s.alm.sec)).clockOk := hs.writeAlrmw ⟨hf .min, hf .sec⟩
      exact State.clockOk_congr rfl hlast

theorem Ran.clockOk {i : Instr} {s t : State} (h : Ran i s t) (hs : s.clockOk) : t.clockOk := by
  cases h with
  | failed | answered | loaded | tagged | accepted => exact State.clockOk_congr rfl hs
  | set p a r w _ hp ha =>
    obtain ⟨hpri, hchk, halm, hrest⟩ := hs
    exact ⟨hp hpri, hchk, ha halm, hrest⟩
  | transacted _ _ _ hstep _ hok => exact State.clockOk_congr (congrArg ClockSide.regs (State.xact_clockSide hstep hok)) hs
  | read _ hbusy hstep => exact execCkread_clockOk hbusy hstep hs
  | committed _ _ hstep => exact execCkcommit_clockOk hstep hs
  | alarmSet _ _ hstep => exact execSetalm_clockOk hstep hs
  | armed _ hbusy hstep =>
    rcases execArmalm_next hbusy hstep with rfl | ⟨-, rfl⟩ | rfl
    · exact State.clockOk_congr rfl hs
    · exact State.clockOk_congr (State.goto_clockRegs ..) hs
    · exact State.clockOk_congr rfl hs

theorem wordsValid_advanceWords {w : ClockWords} (hw : wordsValid w = true) :
    wordsValid (advanceWords w) = true :=
  wordsValid_wordsOf (inRange_timeOf hw).nextSecond

theorem State.clockOk.htick {s : State} (hs : s.clockOk) : s.htick.clockOk := by
  unfold State.clockOk
  simp only [State.htick_pri, State.htick_chk, State.htick_alm, State.htick_rtcw, State.htick_alrmw,
    State.htick_params]
  obtain ⟨hpri, hchk, halm, hrtcw, hrest⟩ := hs
  refine ⟨hpri, hchk, halm, ?_, hrest⟩
  split
  · exact wordsValid_advanceWords hrtcw
  · exact hrtcw

theorem State.clockOk.almack {s : State} (hs : s.clockOk) : s.almack.clockOk := by
  unfold State.almack
  split
  · exact State.clockOk_congr rfl hs
  · exact hs

theorem State.clockOk.resetBlock {s : State} (hs : s.clockOk) : s.resetBlock.clockOk := by
  obtain ⟨-, -, -, -, -, hreset⟩ := hs
  have hvalues : snapValid resetSnap = true ∧ alarmValid resetAlarm = true ∧
      wordsValid resetAlarmWords = true := by decide
  obtain ⟨hsnap, halm, hwords⟩ := hvalues
  exact ⟨hsnap, hsnap, halm, hreset, hwords, hreset⟩

theorem keptBySteps_clockOk : KeptBySteps State.clockOk where
  renew _ hs := State.clockOk_congr rfl hs
  around _ _ _ _ _ _ hs := State.clockOk_congr rfl hs
  htick _ hs := hs.htick
  almack _ hs := hs.almack
  reset _ hs := hs.resetBlock
  illegal _ _ hs := State.clockOk_congr rfl hs
  runs _ _ _ _ hi h hs := (exec_ran hi h).clockOk hs

/-- Settles O53: legal fields are only ever replaced by legal fields. -/
theorem stepKeepsClockFieldValid : Obligations.StepKeepsClockFieldValid :=
  fun _ _ hs h => keptBySteps_clockOk.step hs h

/-! ### The lock (R39, R44, R46, R214) -/

/-- `WREN`, `IRQINH` and `KEYST` are as they were. -/
def State.SameLock (s t : State) : Prop := t.wren = s.wren ∧ t.irqinh = s.irqinh ∧ t.keyst = s.keyst

theorem State.SameLock.of_clockSide {s t : State} (h : t.clockSide = s.clockSide) : s.SameLock t :=
  ⟨congrArg ClockSide.wren h, congrArg ClockSide.irqinh h, congrArg ClockSide.keyst h⟩

theorem State.SameLock.goto (s : State) (k : Nat) : s.SameLock (s.goto k) :=
  .of_clockSide (State.goto_clockSide s k)

theorem State.SameLock.closed {s t : State} (h : s.SameLock t) (hs : s.lockClosed) : t.lockClosed := by
  obtain ⟨hwren, hirq, hkey⟩ := h
  unfold State.lockClosed
  rwa [hwren, hirq, hkey]

theorem State.SameLock.lockAt {s t : State} (h : s.SameLock t) {k : Nat} (hs : s.lockAt k) :
    t.lockAt k := by
  obtain ⟨hwren, hirq, hkey⟩ := h
  unfold State.lockAt State.lockClosed at *
  rwa [hwren, hirq, hkey]

/-- No command but CKCOMMIT touches the lock. -/
theorem Ran.sameLock {i : Instr} {s t : State} (h : Ran i s t) (hne : i ≠ .ckcommit) : s.SameLock t := by
  cases h with
  | failed | answered | loaded | tagged | set | accepted => exact ⟨rfl, rfl, rfl⟩
  | transacted _ _ _ hstep _ hok => exact .of_clockSide (State.xact_clockSide hstep hok)
  | read _ hbusy hstep =>
    rcases execCkread_next hbusy hstep with ⟨f, -, rfl⟩ | ⟨f, -, rfl⟩ | rfl
    · exact State.SameLock.goto (s.readPri f) _
    · exact State.SameLock.goto (s.readChk f) _
    · rcases State.endRead_cases (s.readChk .year) with e | e <;> rw [e] <;> exact ⟨rfl, rfl, rfl⟩
  | committed hi => exact absurd hi hne
  | alarmSet _ _ hstep =>
    unfold execSetalm at hstep
    split at hstep
    · cases hstep
      exact ⟨rfl, rfl, rfl⟩
    · split at hstep <;> cases hstep <;> exact ⟨by simp, by simp, by simp⟩
  | armed _ hbusy hstep =>
    rcases execArmalm_next hbusy hstep with rfl | ⟨-, rfl⟩ | rfl
    · exact ⟨rfl, rfl, rfl⟩
    · exact ⟨by simp, by simp, by simp⟩
    · exact ⟨rfl, rfl, rfl⟩

theorem State.lockOk_of_ckcommit {s : State} {k : Nat} (h : s.running = some (.ckcommit, k)) :
    s.lockOk ↔ s.lockAt k := by
  unfold State.lockOk
  simp only [h]

theorem State.lockOk_of_other {s : State} (h : ∀ k, s.running ≠ some (.ckcommit, k)) :
    s.lockOk ↔ s.lockClosed := by
  unfold State.lockOk
  split
  · next k hk => exact absurd hk (h k)
  · rfl

theorem State.lockOk_of_idle {s : State} (h : s.seq = .idle) : s.lockOk ↔ s.lockClosed :=
  State.lockOk_of_other fun k hk => by rw [State.running_of_idle h] at hk; cases hk

theorem State.lockOk_congr {s t : State} (hseq : t.seq = s.seq) (hlock : s.SameLock t) (hs : s.lockOk) :
    t.lockOk := by
  have hrun : t.running = s.running := State.running_congr hseq
  by_cases h : ∃ k, s.running = some (.ckcommit, k)
  · obtain ⟨k, hk⟩ := h
    rw [State.lockOk_of_ckcommit hk] at hs
    rw [State.lockOk_of_ckcommit (hrun.trans hk)]
    exact hlock.lockAt hs
  · rw [State.lockOk_of_other fun k hk => h ⟨k, hk⟩] at hs
    rw [State.lockOk_of_other fun k hk => h ⟨k, hrun ▸ hk⟩]
    exact hlock.closed hs

/-- Outside CKCOMMIT the lock stays at rest, and the command in progress is not CKCOMMIT after it. -/
theorem Ran.lockOk {i : Instr} {s t : State} (h : Ran i s t) (hr : s.Runs i) (hne : i ≠ .ckcommit)
    (hs : s.lockOk) : t.lockOk := by
  have hbefore : ∀ k, s.running ≠ some (.ckcommit, k) := fun k hk => by
    cases hseq : s.seq with
    | idle => rw [State.running_of_idle hseq] at hk; cases hk
    | busy cmd pl j => rw [hr.running hseq] at hk; cases hk; exact hne rfl
  have hafter : ∀ k, t.running ≠ some (.ckcommit, k) := fun k hk => by
    rcases h.moved.running hr with e | ⟨j, -, -, e⟩ <;> rw [e] at hk <;> cases hk
    exact hne rfl
  rw [State.lockOk_of_other hafter]
  exact (h.sameLock hne).closed ((State.lockOk_of_other hbefore).1 hs)

/-- One micro-step of CKCOMMIT takes the lock from its place in R214's sequence to the next. -/
theorem execCkcommit_lockAt {s t : State} {cmd : CmdWord} {pl : List Byte} {k : Nat}
    (hbusy : s.seq = .busy cmd pl k) (h : execCkcommit s = .next t) (hs : s.lockAt k) :
    t.seq = .busy cmd pl (k + 1) ∧ t.lockAt (k + 1) ∨ t.seq = .idle ∧ t.lockClosed := by
  unfold execCkcommit at h
  split at h
  case h_1 hidle => exact nomatch hbusy.symm.trans hidle
  next _ _ _ hbusy' =>
  cases hbusy.symm.trans hbusy'
  split at h <;> cases h
  case h_1 =>
    obtain ⟨hwren, -, hkey⟩ := hs
    exact .inl ⟨State.goto_seq_of rfl hbusy, by simp [State.lockAt, hwren, hkey]⟩
  case h_2 =>
    obtain ⟨hwren, hirq, hkey⟩ := hs
    exact .inl ⟨State.goto_seq_of rfl hbusy, by simp [State.lockAt, State.writeProt, hwren, hirq, hkey]⟩
  case h_3 =>
    obtain ⟨hwren, hirq, hkey⟩ := hs
    exact .inl ⟨State.goto_seq_of rfl hbusy, by simp [State.lockAt, State.writeProt, hwren, hirq, hkey]⟩
  case h_4 =>
    obtain ⟨-, hirq, hkey⟩ := hs
    exact .inl ⟨State.goto_seq_of rfl hbusy, by simp [State.lockAt, hirq, hkey]⟩
  case h_5 =>
    obtain ⟨hwren, -, hkey⟩ := hs
    exact .inl ⟨State.goto_seq_of rfl hbusy, by simp [State.lockAt, hwren, hkey]⟩
  case h_10 =>
    obtain ⟨-, -, hirq, hkey⟩ := hs
    exact .inr ⟨rfl, rfl, hirq, hkey⟩
  all_goals
    obtain ⟨-, hwren, hirq, hkey⟩ := hs
    exact .inl ⟨State.goto_seq_of (State.writeRtcw_seq ..) hbusy, by simp [State.lockAt, hwren, hirq, hkey]⟩

theorem execCkcommit_lockOk {s t : State} (hr : s.Runs .ckcommit) (h : execCkcommit s = .next t)
    (hs : s.lockOk) : t.lockOk := by
  cases hseq : s.seq with
  | idle =>
    have hclosed : s.lockClosed := (State.lockOk_of_idle hseq).1 hs
    unfold execCkcommit at h
    rw [hseq] at h
    cases h
    have hrun : s.accept.running = some (.ckcommit, 1) := State.running_of_busy rfl (hr.of_idle hseq)
    exact (State.lockOk_of_ckcommit hrun).2 hclosed
  | busy cmd pl k =>
    have hat : s.lockAt k := (State.lockOk_of_ckcommit (hr.running hseq)).1 hs
    rcases execCkcommit_lockAt hseq h hat with ⟨hnext, hlock⟩ | ⟨hidle, hlock⟩
    · exact (State.lockOk_of_ckcommit (State.running_of_busy hnext (hr.of_busy hseq))).2 hlock
    · exact (State.lockOk_of_idle hidle).2 hlock

theorem keptBySteps_lockOk : KeptBySteps State.lockOk where
  renew _ hs := State.lockOk_congr rfl ⟨rfl, rfl, rfl⟩ hs
  around _ _ _ _ _ _ hs := State.lockOk_congr rfl ⟨rfl, rfl, rfl⟩ hs
  htick s hs := State.lockOk_congr s.htick_seq ⟨s.htick_wren, s.htick_irqinh, s.htick_keyst⟩ hs
  almack s hs := State.lockOk_congr s.almack_seq ⟨s.almack_wren, s.almack_irqinh, s.almack_keyst⟩ hs
  reset _ _ := (State.lockOk_of_idle rfl).2 ⟨rfl, rfl, rfl⟩
  illegal _ hrun hs := (State.lockOk_of_idle rfl).2 <|
    (State.lockOk_of_other fun _ hk => nomatch hrun.symm.trans hk).1 hs
  runs i _ _ hr hi h hs := by
    by_cases hne : i = .ckcommit
    · subst hne
      exact execCkcommit_lockOk hr h hs
    · exact (exec_ran hi h).lockOk hr hne hs

/-- Settles O55: CKCOMMIT goes through R214's sequence one step at a time, and nothing else touches the
lock but RESET, which closes it. -/
theorem stepKeepsLockSequence : Obligations.StepKeepsLockSequence :=
  fun _ _ hs h => keptBySteps_lockOk.step hs h

end Sys2Proof.Machine
end

section
/-! The buffer's invariant (R41, R42, R180 to R186): the tag is true of the bytes, and a transaction in
progress has its request in the buffer while it sends and its received bytes there while it polls. -/

namespace Sys2Proof.Machine

/-! ### The buffer's half of the state -/

/-- The buffer, the counters of a transaction, and the parameters. -/
structure BufferSide where
  fb : Memory
  fblen : Nat
  fbk : BufKind
  freeCount : Nat
  idx : Nat
  pollcnt : Nat
  explen : Nat
  params : Params

def State.bufferSide (s : State) : BufferSide :=
  ⟨s.fb, s.fblen, s.fbk, s.freeCount, s.idx, s.pollcnt, s.explen, s.params⟩

@[simp] theorem State.goto_bufferSide (s : State) (k : Nat) : (s.goto k).bufferSide = s.bufferSide := by
  unfold State.goto
  split <;> rfl

@[simp] theorem State.writeRtcw_bufferSide (s : State) (i : Fin 4) (v : Half) :
    (s.writeRtcw i v).bufferSide = s.bufferSide := by
  unfold State.writeRtcw
  split <;> rfl

theorem State.compareAlarm_bufferSide (s : State) (edge : Bool) :
    (s.compareAlarm edge).bufferSide = s.bufferSide := by
  unfold State.compareAlarm
  split <;> rfl

theorem State.htick_bufferSide (s : State) : s.htick.bufferSide = s.bufferSide := by
  unfold State.htick
  split <;> exact State.compareAlarm_bufferSide ..

theorem State.almack_bufferSide (s : State) : s.almack.bufferSide = s.bufferSide := by
  unfold State.almack
  split <;> rfl

theorem State.endRead_bufferSide (s : State) : s.endRead.bufferSide = s.bufferSide := by
  unfold State.endRead
  split <;> rfl

theorem execCkread_bufferSide {s t : State} {cmd : CmdWord} {pl : List Byte} {k : Nat}
    (hbusy : s.seq = .busy cmd pl k) (h : execCkread s = .next t) : t.bufferSide = s.bufferSide := by
  rcases execCkread_next hbusy h with ⟨f, -, rfl⟩ | ⟨f, -, rfl⟩ | rfl
  · exact State.goto_bufferSide ..
  · exact State.goto_bufferSide ..
  · exact State.endRead_bufferSide ..

theorem execCkcommit_bufferSide {s t : State} (h : execCkcommit s = .next t) :
    t.bufferSide = s.bufferSide := by
  unfold execCkcommit at h
  split at h
  · cases h
    rfl
  · split at h <;> cases h
    case h_6 | h_7 | h_8 | h_9 => exact (State.goto_bufferSide ..).trans (State.writeRtcw_bufferSide ..)
    case h_10 => rfl
    all_goals exact State.goto_bufferSide ..

theorem execSetalm_bufferSide {s t : State} (h : execSetalm s = .next t) :
    t.bufferSide = s.bufferSide := by
  unfold execSetalm at h
  split at h
  · cases h
    rfl
  · split at h <;> cases h
    case h_5 => rfl
    all_goals exact State.goto_bufferSide ..

theorem execArmalm_bufferSide {s t : State} {cmd : CmdWord} {pl : List Byte} {k : Nat} {m : BitVec 4}
    (hbusy : s.seq = .busy cmd pl k) (h : execArmalm m s = .next t) : t.bufferSide = s.bufferSide := by
  rcases execArmalm_next hbusy h with rfl | ⟨-, rfl⟩ | rfl
  · rfl
  · exact State.goto_bufferSide ..
  · rfl

/-! ### The tag -/

theorem State.fbBytes_congr_fb {s t : State} (hfb : t.fb = s.fb) (hfree : t.freeCount = s.freeCount)
    (off n : Nat) : t.fbBytes off n = s.fbBytes off n :=
  State.fbBytes_congr fun _ _ => State.fbByte_congr (congrArg Memory.get? hfb) hfree _

theorem State.tagOk_congr {s t : State} (h : t.bufferSide = s.bufferSide) (hs : s.tagOk) : t.tagOk := by
  simp only [State.bufferSide, BufferSide.mk.injEq] at h
  obtain ⟨hfb, hlen, hk, hfree, -, -, -, hP⟩ := h
  unfold State.tagOk State.specified
  rw [hlen, hk, hP, hfb, State.fbBytes_congr_fb hfb hfree]
  exact hs

theorem State.tagOk_of_unspec {s : State} (hk : s.fbk = .unspec) (hlen : s.fblen ≤ s.params.fbSize) :
    s.tagOk := by
  unfold State.tagOk
  rw [hk]
  exact ⟨hlen, nofun, nofun, nofun, fun h => absurd rfl h⟩

theorem State.specified_stored {s : State} {m : Memory} {f : List Byte}
    (hfb : s.fb = Memory.setList m 0 f) : s.specified f.length := by
  intro i hi
  rw [hfb, Memory.get?_setList_isSome, decide_eq_true (by omega), Bool.true_or]

/-- Bytes just stored from index 0, as they are or as a frame that verifies. -/
theorem State.tagOk_of_loaded {s : State} {m : Memory} {f : List Byte} (hfb : s.fb = Memory.setList m 0 f)
    (hlen : s.fblen = f.length) (hfit : f.length ≤ s.params.fbSize)
    (hkind : s.fbk = .raw ∨ s.fbk = .good ∧ verifyFrame f = true) : s.tagOk := by
  have hbytes : s.fbBytes 0 s.fblen = f := hlen ▸ State.fbBytes_stored hfb
  have hspec : s.specified s.fblen := hlen ▸ State.specified_stored hfb
  unfold State.tagOk
  rw [hbytes]
  rcases hkind with hk | ⟨hk, hv⟩ <;> rw [hk]
  · exact ⟨hlen ▸ hfit, nofun, nofun, nofun, fun _ => hspec⟩
  · exact ⟨hlen ▸ hfit, nofun, fun _ => hv, nofun, fun _ => hspec⟩

/-- The tag after a check of specified bytes is the check's result (R140, R186). -/
theorem State.tagOk_of_verify {s : State} {v : Bool} (hlen : s.fblen ≤ s.params.fbSize)
    (hspec : s.specified s.fblen) (hk : s.fbk = if v then .good else .bad)
    (hv : verifyFrame (s.fbBytes 0 s.fblen) = v) : s.tagOk := by
  unfold State.tagOk
  rw [hk]
  cases v with
  | true => exact ⟨hlen, nofun, fun _ => hv, nofun, fun _ => hspec⟩
  | false => exact ⟨hlen, nofun, nofun, fun _ => hv, fun _ => hspec⟩

theorem State.renewFree_fblen_le {s : State} (h : s.fblen ≤ s.params.fbSize) :
    s.renewFree.fblen ≤ s.params.fbSize := by
  rw [State.renewFree_fblen]
  split
  · exact Nat.min_le_right ..
  · exact h

theorem State.renewFree_tagOk {s : State} (hs : s.tagOk) : s.renewFree.tagOk := by
  by_cases hk : s.fbk = .unspec
  · exact State.tagOk_of_unspec hk (State.renewFree_fblen_le hs.1)
  · rwa [State.renewFree_of_specified hk]

/-! ### The invariant by the command in progress -/

theorem State.bufOk_iff {s : State} : s.bufOk ↔ s.tagOk ∧ ∀ i k f n, s.running = some (i, k) →
    transaction s.params i = some (f, n) → f.length ≤ s.params.fbSize ∧ s.xactOk k n := by
  unfold State.bufOk
  refine and_congr_right fun _ => ?_
  cases s.running with
  | none => exact ⟨fun _ => nofun, fun _ => trivial⟩
  | some ik =>
    obtain ⟨i, k⟩ := ik
    dsimp only
    cases hx : transaction s.params i with
    | none => exact ⟨fun _ _ _ _ _ e hx' => (by cases e; exact nomatch hx.symm.trans hx'), fun _ => trivial⟩
    | some fn =>
      exact ⟨fun h _ _ _ _ e hx' => (by cases e; cases hx.symm.trans hx'; exact h),
        fun h => h i k fn.1 fn.2 rfl hx⟩

theorem State.bufOk_of_idle {s : State} (h : s.seq = .idle) (htag : s.tagOk) : s.bufOk :=
  State.bufOk_iff.2 ⟨htag, fun _ _ _ _ hrun => nomatch (State.running_of_idle h).symm.trans hrun⟩

theorem State.bufOk_of_transaction {s : State} {cmd : CmdWord} {pl : List Byte} {k : Nat} {i : Instr}
    {f : List Byte} {n : Nat} (hseq : s.seq = .busy cmd pl k) (hd : decodeCommand cmd pl = .ok i)
    (hi : transaction s.params i = some (f, n)) (htag : s.tagOk) (hfit : f.length ≤ s.params.fbSize)
    (hx : s.xactOk k n) : s.bufOk := by
  refine State.bufOk_iff.2 ⟨htag, fun i' k' f' n' hrun hi' => ?_⟩
  cases (State.running_of_busy hseq hd).symm.trans hrun
  cases hi.symm.trans hi'
  exact ⟨hfit, hx⟩

theorem State.xactOk_congr {s t : State} {k n : Nat} (hfb : t.fb = s.fb) (hk : t.fbk = s.fbk)
    (hidx : t.idx = s.idx) (hpoll : t.pollcnt = s.pollcnt) (hexp : t.explen = s.explen)
    (hP : t.params = s.params) (hs : s.xactOk k n) : t.xactOk k n := by
  unfold State.xactOk State.specified at *
  rwa [hfb, hk, hidx, hpoll, hexp, hP]

/-- The invariant looks at the buffer's half and at the command in progress only, and not at the length
or the epoch beyond what the tag says of them. -/
theorem State.bufOk_congr {s t : State} (hseq : t.seq = s.seq) (hfb : t.fb = s.fb) (hk : t.fbk = s.fbk)
    (hidx : t.idx = s.idx) (hpoll : t.pollcnt = s.pollcnt) (hexp : t.explen = s.explen)
    (hP : t.params = s.params) (htag : t.tagOk) (hs : s.bufOk) : t.bufOk := by
  refine State.bufOk_iff.2 ⟨htag, fun i k f n hrun hi => ?_⟩
  rw [State.running_congr hseq] at hrun
  rw [hP] at hi ⊢
  obtain ⟨hfit, hx⟩ := (State.bufOk_iff.1 hs).2 i k f n hrun hi
  exact ⟨hfit, State.xactOk_congr hfb hk hidx hpoll hexp hP hx⟩

theorem State.bufOk_of_bufferSide {s t : State} (hseq : t.seq = s.seq) (h : t.bufferSide = s.bufferSide)
    (hs : s.bufOk) : t.bufOk := by
  have htag : t.tagOk := State.tagOk_congr h hs.1
  simp only [State.bufferSide, BufferSide.mk.injEq] at h
  obtain ⟨hfb, -, hk, -, hidx, hpoll, hexp, hP⟩ := h
  exact State.bufOk_congr hseq hfb hk hidx hpoll hexp hP htag hs

/-! ### The steps of a transaction (R182 to R186) -/

section Transaction

variable {s t : State} {cmd : CmdWord} {pl : List Byte} {i : Instr} {f : List Byte} {n : Nat}

theorem State.xactBuild_bufOk {k : Nat} (hseq : s.seq = .busy cmd pl k) (hd : decodeCommand cmd pl = .ok i)
    (hi : transaction s.params i = some (f, n)) (hverify : verifyFrame f = true) (hx : s.xactOk k n)
    (h : s.xactBuild f = .next t) : t.bufOk := by
  obtain ⟨hfit, rfl⟩ := State.xactBuild_next h
  have htag := State.tagOk_of_loaded
    (s := { s with fb := Memory.setList s.fb 0 f, fblen := f.length, fbk := .good, idx := 0 })
    rfl rfl hfit (.inr ⟨rfl, hverify⟩)
  obtain ⟨h5, hsize, -⟩ := hx
  refine State.bufOk_of_transaction (State.goto_seq_of rfl hseq) hd (n := n) (f := f) ?_
    (State.tagOk_congr (State.goto_bufferSide ..) htag) ?_ ?_
  · rwa [State.goto_params]
  · rwa [State.goto_params]
  · unfold State.xactOk
    rw [State.goto_params, State.goto_fbk]
    exact ⟨h5, hsize, rfl⟩

/-- Sending leaves the request where it is. -/
theorem State.xactSend_bufOk (hseq : s.seq = .busy cmd pl 2) (hd : decodeCommand cmd pl = .ok i)
    (hi : transaction s.params i = some (f, n)) (htag : s.tagOk) (hfit : f.length ≤ s.params.fbSize)
    (hx : s.xactOk 2 n) (h : s.xactSend = .next t) : t.bufOk := by
  obtain ⟨h5, hsize, hgood⟩ := hx
  have hstep : ∀ (u : State) (k : Nat), u.seq = s.seq → u.params = s.params → u.fbk = s.fbk → u.tagOk →
      k = 2 ∨ k = 3 → (u.goto k).bufOk := by
    intro u k hu hP hk hut hk23
    refine State.bufOk_of_transaction (State.goto_seq_of hu hseq) hd (n := n) (f := f) ?_
      (State.tagOk_congr (State.goto_bufferSide ..) hut) ?_ ?_
    · rwa [State.goto_params, hP]
    · rwa [State.goto_params, hP]
    · unfold State.xactOk
      rw [State.goto_params, State.goto_fbk, hP, hk]
      rcases hk23 with rfl | rfl
      · exact ⟨h5, hsize, hgood⟩
      · exact ⟨h5, hsize, trivial⟩
  rcases State.xactSend_next h with ⟨-, -, rfl⟩ | ⟨-, rfl⟩
  · refine hstep _ _ rfl rfl rfl htag ?_
    split
    · exact .inl rfl
    · exact .inr rfl
  · exact hstep s 3 rfl rfl rfl htag (.inr rfl)

theorem State.xactSetup_bufOk {k : Nat} (hP : s.params.ok = true) (hseq : s.seq = .busy cmd pl k)
    (hd : decodeCommand cmd pl = .ok i) (hi : transaction s.params i = some (f, n))
    (hfit : f.length ≤ s.params.fbSize) (hx : s.xactOk k n) :
    ({ s.havocFb with fbk := .unspec, idx := 0, explen := n, pollcnt := s.params.pollBudget }.goto 4).bufOk := by
  obtain ⟨h5, hsize, -⟩ := hx
  have htag : State.tagOk
      { s.havocFb with fbk := .unspec, idx := 0, explen := n, pollcnt := s.params.pollBudget } :=
    State.tagOk_of_unspec rfl (Nat.min_le_right ..)
  refine State.bufOk_of_transaction (State.goto_seq_of rfl hseq) hd (n := n) (f := f) ?_
    (State.tagOk_congr (State.goto_bufferSide ..) htag) ?_ ?_
  · rwa [State.goto_params]
  · rwa [State.goto_params]
  · refine State.xactOk_congr (State.goto_fb ..) (State.goto_fbk ..) (State.goto_idx ..)
      (State.goto_pollcnt ..) (State.goto_explen ..) (State.goto_params ..) ?_
    exact ⟨h5, hsize, rfl, rfl, by show 0 < n; omega, fun _ hj => absurd hj (Nat.not_lt_zero _),
      (Params.sizes_of_ok hP).2.1, Nat.le_refl _⟩

theorem State.specified_set {b : Byte} {u : State} (hfb : u.fb = Memory.set s.fb s.idx b)
    (hspec : s.specified s.idx) : u.specified (s.idx + 1) := by
  intro j hj
  rw [hfb, Memory.get?_set]
  split
  · rfl
  · exact hspec j (by omega)

/-- A poll stores a byte after the others, or takes one from the budget (R185). -/
theorem State.xactPoll_bufOk (hP : s.params.ok = true) (hseq : s.seq = .busy cmd pl 4)
    (hd : decodeCommand cmd pl = .ok i) (hi : transaction s.params i = some (f, n)) (htag : s.tagOk)
    (hfit : f.length ≤ s.params.fbSize) (hx : s.xactOk 4 n) (h : s.xactPoll = .next t) : t.bufOk := by
  obtain ⟨h5, hsize, hk, hexp, hidx, hspec, hpoll1, hpoll⟩ := hx
  have hlen : s.renewFree.fblen ≤ s.params.fbSize := State.renewFree_fblen_le htag.1
  rcases State.xactPoll_cases s with ⟨b, -, e⟩ | ⟨-, e⟩ <;> rw [e] at h
  · have hset : ∀ u : State, u.fb = Memory.set s.fb s.idx b → u.specified (s.idx + 1) :=
      fun u hu => State.specified_set hu hspec
    obtain ⟨-, ⟨hlast, rfl⟩ | ⟨hmore, rfl⟩⟩ := State.xactByte_next h
    · have hn : s.idx + 1 = n := hlast.trans hexp
      refine State.bufOk_of_transaction (State.goto_seq_of rfl hseq) hd (n := n) (f := f) ?_
        (State.tagOk_congr (State.goto_bufferSide ..) (State.tagOk_of_unspec hk hlen)) ?_ ?_
      · rwa [State.goto_params]
      · rwa [State.goto_params]
      · refine State.xactOk_congr (State.goto_fb ..) (State.goto_fbk ..) (State.goto_idx ..)
          (State.goto_pollcnt ..) (State.goto_explen ..) (State.goto_params ..) ?_
        exact ⟨h5, hsize, hk, hexp, hn, hn ▸ hset _ rfl⟩
    · have hn : s.idx + 1 ≠ n := fun hn => hmore (hn.trans hexp.symm)
      refine State.bufOk_of_transaction hseq hd (n := n) (f := f) hi (State.tagOk_of_unspec hk hlen) hfit ?_
      exact ⟨h5, hsize, hk, hexp, by show s.idx + 1 < n; omega, hset _ rfl, (Params.sizes_of_ok hP).2.1,
        Nat.le_refl _⟩
  · rcases State.xactNone_cases s.renewFree.rxAdvance with ⟨-, e⟩ | ⟨hleft, e⟩ <;> rw [e] at h <;> cases h
    · exact State.bufOk_of_idle rfl (State.tagOk_of_unspec hk (Nat.min_le_right ..))
    · have hleft : s.pollcnt - 1 ≠ 0 := hleft
      refine State.bufOk_of_transaction hseq hd (n := n) (f := f) hi (State.tagOk_of_unspec hk hlen) hfit ?_
      exact ⟨h5, hsize, hk, hexp, hidx, hspec, by show 1 ≤ s.pollcnt - 1; omega,
        by show s.pollcnt - 1 ≤ s.params.pollBudget; omega⟩

theorem State.xactCheck_bufOk {ok : State → Result} (hx : s.xactOk 5 n)
    (hok : ∀ u, ok u = .next t → ∃ r rb, t = u.done r rb false) (h : s.xactCheck ok = .next t) :
    t.bufOk := by
  obtain ⟨-, hsize, -, hexp, -, hspec⟩ := hx
  have hlen : s.explen ≤ s.params.fbSize := hexp.symm ▸ hsize
  have hall : s.specified s.explen := hexp.symm ▸ hspec
  obtain ⟨-, ⟨hv, h⟩ | ⟨hv, rfl⟩⟩ := State.xactCheck_next h
  · obtain ⟨r, rb, rfl⟩ := hok _ h
    have htag : State.tagOk { s with fblen := s.explen, fbk := .good } :=
      State.tagOk_of_verify (v := true) hlen hall rfl hv
    exact State.bufOk_of_idle rfl (State.tagOk_congr rfl htag)
  · have htag : State.tagOk { s with fblen := s.explen, fbk := .bad } :=
      State.tagOk_of_verify (v := false) hlen hall rfl hv
    exact State.bufOk_of_idle rfl (State.tagOk_congr rfl htag)

end Transaction

/-! ### Every step -/

theorem Ran.bufOk {i : Instr} {s t : State} (h : Ran i s t) (hr : s.Runs i) (hP : s.params.ok = true)
    (hs : s.bufOk) : t.bufOk := by
  obtain ⟨htag, hxact⟩ := State.bufOk_iff.1 hs
  -- a command of the ClockKeeper has no transaction, before the step or after it
  have hclock : (∀ P, transaction P i = none) → t.bufferSide = s.bufferSide → t.bufOk := fun hi hside => by
    refine State.bufOk_iff.2 ⟨State.tagOk_congr hside htag, fun i' k f n hrun hx => ?_⟩
    rcases h.moved.running hr with e | ⟨j, -, -, e⟩
    · exact nomatch e.symm.trans hrun
    · cases e.symm.trans hrun
      exact nomatch (hi _).symm.trans hx
  cases h with
  | failed | answered | set => exact State.bufOk_of_idle rfl (State.tagOk_congr rfl htag)
  | loaded f kind r rb hfit hkind =>
    have hload : State.tagOk { s with fb := Memory.setList s.fb 0 f, fblen := f.length, fbk := kind } :=
      State.tagOk_of_loaded rfl rfl hfit hkind
    exact State.bufOk_of_idle rfl (State.tagOk_congr rfl hload)
  | tagged r _ hspec =>
    obtain ⟨hlen, -, -, -, hall⟩ := htag
    have hverify : State.tagOk
        { s with fbk := if verifyFrame (s.fbBytes 0 s.fblen) then .good else .bad } :=
      State.tagOk_of_verify hlen (hall hspec) rfl rfl
    exact State.bufOk_of_idle rfl (State.tagOk_congr rfl hverify)
  | accepted hidle _ hfit =>
    refine State.bufOk_iff.2 ⟨State.tagOk_congr rfl htag, fun i' k f n hrun hx => ?_⟩
    cases (State.running_of_busy (s := s.accept) rfl (hr.of_idle hidle)).symm.trans hrun
    obtain ⟨hlen, h5, hsize⟩ := hfit f n hx hP
    exact ⟨hlen, h5, hsize, trivial⟩
  | transacted hbusy _ hi hstep hverify hok =>
    obtain ⟨hfit, hx⟩ := hxact _ _ _ _ (hr.running hbusy) hi
    have hd := hr.of_busy hbusy
    obtain ⟨f', rfl⟩ := hverify
    rcases State.xact_next hstep with ⟨rfl, h1⟩ | ⟨rfl, h2⟩ | ⟨rfl, rfl⟩ | ⟨rfl, h4⟩ | ⟨rfl, h5⟩
    · exact State.xactBuild_bufOk hbusy hd hi (verifyFrame_frame f') hx h1
    · exact State.xactSend_bufOk hbusy hd hi htag hfit hx h2
    · exact State.xactSetup_bufOk hP hbusy hd hi hfit hx
    · exact State.xactPoll_bufOk hP hbusy hd hi htag hfit hx h4
    · exact State.xactCheck_bufOk hx hok h5
  | read hi hbusy hstep => exact hclock (fun _ => hi ▸ rfl) (execCkread_bufferSide hbusy hstep)
  | committed hi _ hstep => exact hclock (fun _ => hi ▸ rfl) (execCkcommit_bufferSide hstep)
  | alarmSet hi _ hstep => exact hclock (fun _ => hi ▸ rfl) (execSetalm_bufferSide hstep)
  | armed hi hbusy hstep => exact hclock (fun _ => hi ▸ rfl) (execArmalm_bufferSide hbusy hstep)

theorem keptBySteps_bufOk : KeptBySteps fun s => s.params.ok = true ∧ s.bufOk where
  renew s hs := ⟨hs.1, State.bufOk_congr (s := s) rfl rfl rfl rfl rfl rfl rfl
    (State.renewFree_tagOk hs.2.1) hs.2⟩
  around _ _ _ _ _ _ hs := ⟨hs.1, State.bufOk_of_bufferSide rfl rfl hs.2⟩
  htick s hs := ⟨s.htick_params ▸ hs.1, State.bufOk_of_bufferSide s.htick_seq s.htick_bufferSide hs.2⟩
  almack s hs := ⟨s.almack_params ▸ hs.1, State.bufOk_of_bufferSide s.almack_seq s.almack_bufferSide hs.2⟩
  reset _ hs := ⟨hs.1, State.bufOk_of_idle rfl
    ⟨Nat.zero_le _, fun _ => rfl, nofun, nofun, fun _ _ hi => absurd hi (Nat.not_lt_zero _)⟩⟩
  illegal _ _ hs := ⟨hs.1, State.bufOk_of_idle rfl (State.tagOk_congr rfl hs.2.1)⟩
  runs _ _ _ hr hi h hs := ⟨(exec_keepsForm h).1.symm ▸ hs.1, (exec_ran hi h).bufOk hr hs.1 hs.2⟩

/-- Settles O56: `Ran.bufOk` goes through the ways to step, of which a transaction's five steps are the
ones that leave the tag UNSPEC and set it again. -/
theorem stepKeepsBufferTagTruthful : Obligations.StepKeepsBufferTagTruthful :=
  fun _ _ hP hs h => (keptBySteps_bufOk.step ⟨hP, hs⟩ h).2

end Sys2Proof.Machine
end

section
/-! One step of a transaction, by its number (R182 to R186), for the three commands that run one: the
set-up of the reception and one poll (R185). -/

namespace Sys2Proof.Machine

/-- What ends a transaction once its checksum is right: RDHOLD returns the payload, a write nothing
(R188, R190). -/
def transactionEnd (i : Instr) (u : State) : Result :=
  match i with
  | .rdhold _ _ c =>
    u.readFb 3 (2 * c.toNat) fun p => .next (u.done (BitVec.ofNat 32 (2 * c.toNat)) p false)
  | _ => .next (u.done 0#32 [] false)

theorem execRdhold_of_busy {a : Byte} {b c : Half} {s : State} {cmd : CmdWord} {pl : List Byte} {k : Nat}
    (h : s.seq = .busy cmd pl k) : execRdhold a b c s =
      s.xact k (readRequest a b c) (readRspLen c) (transactionEnd (.rdhold a b c)) := by
  unfold execRdhold
  rw [h]
  rfl

theorem State.writeMultiple_of_busy {a : Byte} {b : Half} {data : List Byte} {s : State} {cmd : CmdWord}
    {pl : List Byte} {k : Nat} (h : s.seq = .busy cmd pl k) : s.writeMultiple a b data =
      s.xact k (writeRequest s.params.wrByteCount a b data) s.params.wrRspLen
        fun u => .next (u.done 0#32 [] false) := by
  unfold State.writeMultiple
  rw [h]

theorem exec_eq_xact {i : Instr} {s : State} {cmd : CmdWord} {pl : List Byte} {k : Nat} {f : List Byte}
    {n : Nat} (hi : transaction s.params i = some (f, n)) (h : s.seq = .busy cmd pl k) :
    exec i s = s.xact k f n (transactionEnd i) := by
  match i, hi with
  | .rdhold .., rfl => exact execRdhold_of_busy h
  | .wrmult .., rfl => exact State.writeMultiple_of_busy h
  | .unlock, rfl => exact State.writeMultiple_of_busy h

/-! ### Steps 3 and 4 (R185) -/

theorem State.goto_eq_of {s u : State} {cmd : CmdWord} {pl : List Byte} {k k' : Nat} (hu : u.seq = s.seq)
    (hbusy : s.seq = .busy cmd pl k) : u.goto k' = { u with seq := .busy cmd pl k' } :=
  State.goto_busy (hu.trans hbusy) k'

theorem State.xactSetup_of_busy {s : State} {cmd : CmdWord} {pl : List Byte} {k n : Nat}
    (h : s.seq = .busy cmd pl k) : s.xactSetup n = .next { s.havocFb with
      fbk := .unspec
      idx := 0
      explen := n
      pollcnt := s.params.pollBudget
      seq := .busy cmd pl 4 } :=
  congrArg Host.Outcome.next (State.goto_eq_of rfl h)

theorem State.xactByte_of_lt {s : State} {b : Byte} (h : s.idx < s.params.fbSize) : s.xactByte b =
    if s.idx + 1 = s.explen then .next ({ s with fb := Memory.set s.fb s.idx b, idx := s.idx + 1 }.goto 5)
    else .next { s with
      fb := Memory.set s.fb s.idx b
      idx := s.idx + 1
      pollcnt := s.params.pollBudget } := by
  unfold State.xactByte
  rw [State.writeFb_of_le (bs := [b]) h]
  rfl

theorem State.xactNone_of_one {s : State} (h : s.pollcnt = 1) :
    s.xactNone = .next ({ s with pollcnt := 0 }.havocFb.raise .timeout) := by
  unfold State.xactNone
  rw [h]
  rfl

theorem State.xactNone_of_two {s : State} (h : 2 ≤ s.pollcnt) :
    s.xactNone = .next { s with pollcnt := s.pollcnt - 1 } :=
  if_neg (by omega)

/-- The state a poll acts on: an answer consumed, and what is unspecified so anew, with a tag of UNSPEC
only (R43, R85). -/
theorem State.polled_cases (s : State) : ∃ n e, s.renewFree.rxAdvance = { s with
      fblen := n
      freeCount := e
      rx := s.rx.tail
      rxCount := s.rxCount + 1 } ∧
    (s.fbk = .unspec → n ≤ s.params.fbSize) ∧ (s.fbk ≠ .unspec → n = s.fblen ∧ e = s.freeCount) := by
  obtain ⟨n, e, heq, hunspec, hspec⟩ := State.renewFree_cases s
  exact ⟨n, e, congrArg State.rxAdvance heq, fun hk => (hunspec hk).1, hspec⟩

theorem State.xactPoll_of_some {s : State} {b : Byte} (h : s.rxNext = some b) :
    s.xactPoll = s.renewFree.rxAdvance.xactByte b := by
  unfold State.xactPoll
  rw [h]

theorem State.xactPoll_of_none {s : State} (h : s.rxNext = none) :
    s.xactPoll = s.renewFree.rxAdvance.xactNone := by
  unfold State.xactPoll
  rw [h]

theorem State.fbByte_set_same {u : State} {m : Memory} {i : Nat} {b : Byte} (h : u.fb = Memory.set m i b) :
    u.fbByte i = b :=
  State.fbByte_specified (by rw [h, Memory.get?_set, if_pos rfl])

/-- A store of one byte leaves every other specified byte, and in the same epoch every other byte. -/
theorem State.fbByte_set_other {s u : State} {i j : Nat} {b : Byte} (h : u.fb = Memory.set s.fb i b)
    (hj : j ≠ i) (hkeep : u.freeCount = s.freeCount ∨ (Memory.get? s.fb j).isSome = true) :
    u.fbByte j = s.fbByte j := by
  unfold State.fbByte
  rw [h, Memory.get?_set, if_neg hj]
  rcases hkeep with hfree | hsome
  · rw [hfree]
  · obtain ⟨v, hv⟩ := Option.isSome_iff_exists.1 hsome
    rw [hv]

/-- Settles O16: each clause is the operation of step 3 or 4 by its equation, the poll's from a state in
which what is unspecified is so anew. -/
theorem receivePollsUnderABudget : Obligations.ReceivePollsUnderABudget := by
  intro i f n cmd pl s hi lengthOf
  refine ⟨fun h => ?_, fun h => ⟨fun x rest hrx => ?_, fun hrx => ?_, ?_⟩⟩
  · exact ⟨_, (exec_eq_xact hi h).trans (State.xactSetup_of_busy h), rfl, Nat.min_le_right ..⟩
  · unfold State.rxNext
    rw [hrx]
  · unfold State.rxNext
    rw [hrx]
  obtain ⟨n', e, hpolled, hunspec, hspec⟩ := State.polled_cases s
  have hexec : exec i s = s.xactPoll := exec_eq_xact hi h
  refine ⟨fun b hb hidx => ?_, fun hnone => ⟨fun hleft => ?_, fun hlast => ?_⟩⟩
  · have hkeep : ∀ u : State, u.fb = Memory.set s.fb s.idx b → u.freeCount = e →
        ∀ j, j ≠ s.idx → s.fbk ≠ .unspec ∨ (Memory.get? s.fb j).isSome = true → u.fbByte j = s.fbByte j :=
      fun u hfb hfree j hj hor => State.fbByte_set_other hfb hj (hor.imp_left fun hk => hfree.trans (hspec hk).2)
    rw [hexec, State.xactPoll_of_some hb, hpolled, State.xactByte_of_lt (by exact hidx)]
    by_cases hlast : s.idx + 1 = s.explen
    · exact ⟨_, (if_pos hlast).trans (congrArg Host.Outcome.next (State.goto_eq_of rfl h)),
        ⟨hunspec, hspec⟩, State.fbByte_set_same rfl, hkeep _ rfl rfl, fun _ => rfl,
        fun hmore => absurd hlast hmore⟩
    · exact ⟨_, if_neg hlast, ⟨hunspec, hspec⟩, State.fbByte_set_same rfl, hkeep _ rfl rfl,
        fun hl => absurd hl hlast, fun _ => rfl⟩
  · rw [hexec, State.xactPoll_of_none hnone, hpolled]
    exact ⟨_, State.xactNone_of_two hleft, ⟨hunspec, hspec⟩, rfl⟩
  · rw [hexec, State.xactPoll_of_none hnone, hpolled]
    exact ⟨_, State.xactNone_of_one hlast, Nat.min_le_right .., rfl, id⟩

end Sys2Proof.Machine
end

section
/-! Progress: in a legal state every step answers (R27, R40, R100). The buffer's invariant keeps each
access inside the buffer, and the sequencer's keeps each micro-step among those the command has. -/

namespace Sys2Proof.Machine

/-! ### The shared operations -/

/-- A step that neither faults nor refuses. -/
def Answers (r : Result) : Prop := ∃ t, r = .next t

theorem Answers.next (t : State) : Answers (.next t) := ⟨t, rfl⟩

theorem Answers.ite {p : Prop} [Decidable p] {a b : Result} (ha : p → Answers a) (hb : ¬ p → Answers b) :
    Answers (if p then a else b) := by
  split
  · exact ha ‹_›
  · exact hb ‹_›

theorem State.readFb_answers {s : State} {off n : Nat} {cont : List Byte → Result}
    (h : off + n ≤ s.params.fbSize) (hcont : ∀ bs, Answers (cont bs)) : Answers (s.readFb off n cont) := by
  rw [State.readFb_of_le h]
  exact hcont _

theorem State.loadFb_answers {s : State} {bs : List Byte} {kind : BufKind} {cont : State → Result}
    (h : bs.length ≤ s.params.fbSize) (hcont : ∀ u, Answers (cont u)) : Answers (s.loadFb bs kind cont) := by
  rw [State.loadFb_of_le h]
  exact hcont _

theorem State.buildFrame_answers {s : State} {f : List Byte} (h : f.length ≤ s.params.fbSize) :
    Answers (s.buildFrame f) := by
  unfold State.buildFrame
  exact State.loadFb_answers h fun _ => .next _

theorem State.xactBuild_answers {s : State} {f : List Byte} (h : f.length ≤ s.params.fbSize) :
    Answers (s.xactBuild f) := by
  unfold State.xactBuild
  exact State.loadFb_answers h fun _ => .next _

theorem execLdfb_answers {s : State} {pl : List Byte} (h : pl.length ≤ s.params.fbSize) :
    Answers (execLdfb pl s) := by
  unfold execLdfb
  exact State.loadFb_answers h fun _ => .next _

theorem State.payload_answers {s : State} {off w : Nat} {cont : List Byte → Result}
    (h : s.fblen ≤ s.params.fbSize) (hcont : ∀ bs, Answers (cont bs)) : Answers (s.payload off w cont) := by
  unfold State.payload
  exact .ite (fun _ => .next _) fun _ => .ite (fun _ => .next _) fun hw =>
    State.readFb_answers (by omega) hcont

theorem transactionEnd_answers {i : Instr} {f : List Byte} {n : Nat} {s : State}
    (hi : transaction s.params i = some (f, n)) (hsize : n ≤ s.params.fbSize) :
    Answers (transactionEnd i s) := by
  match i, hi with
  | .rdhold .., rfl =>
    unfold readRspLen at hsize
    exact State.readFb_answers (by omega) fun _ => .next _
  | .wrmult .., _ => exact .next _
  | .unlock, _ => exact .next _

theorem State.xactPoll_answers {s : State} (h : s.idx < s.params.fbSize) : Answers s.xactPoll := by
  rcases State.xactPoll_cases s with ⟨b, -, e⟩ | ⟨-, e⟩ <;> rw [e]
  · rw [State.xactByte_of_lt (by exact h)]
    exact .ite (fun _ => .next _) fun _ => .next _
  · exact .ite (fun _ => .next _) fun _ => .next _

theorem State.xactCheck_answers {s : State} {ok : State → Result} (h : s.explen ≤ s.params.fbSize)
    (hok : ∀ u, u.params = s.params → Answers (ok u)) : Answers (s.xactCheck ok) := by
  unfold State.xactCheck
  exact State.readFb_answers (by omega) fun _ => .ite (fun _ => hok _ rfl) fun _ => .next _

/-! ### A transaction -/

/-- A numbered step of a transaction answers: its frame, its byte, its check stay inside the buffer. -/
theorem State.xact_answers {s : State} {k : Nat} {f : List Byte} {n : Nat} {ok : State → Result}
    (htag : s.tagOk) (hfit : f.length ≤ s.params.fbSize) (hx : s.xactOk k n) (h1 : 1 ≤ k) (h5 : k ≤ 5)
    (hok : ∀ u, u.params = s.params → Answers (ok u)) : Answers (s.xact k f n ok) := by
  obtain ⟨-, hsize, hstep⟩ := hx
  match k, h1, h5, hstep with
  | 1, _, _, _ => exact State.xactBuild_answers hfit
  | 2, _, _, _ =>
    have hlen := htag.1
    exact .ite (fun hidx => State.readFb_answers (by omega) fun _ => .next _) fun _ => .next _
  | 3, _, _, _ => exact .next _
  | 4, _, _, hpoll =>
    obtain ⟨-, -, hidx, -⟩ := hpoll
    exact State.xactPoll_answers (by omega)
  | 5, _, _, hcheck =>
    obtain ⟨-, hexp, -⟩ := hcheck
    exact State.xactCheck_answers (by omega) hok

theorem State.seqOk.range {s : State} {i : Instr} {cmd : CmdWord} {pl : List Byte} {k : Nat} (h : s.seqOk)
    (hr : s.Runs i) (hs : s.seq = .busy cmd pl k) : 1 ≤ k ∧ k ≤ microSteps i := by
  unfold State.seqOk at h
  simpa only [hs, hr.of_busy hs] using h

/-- A transaction's command answers from Idle by its operand checks, from Busy by its step. -/
theorem exec_answers_of_transaction {i : Instr} {s : State} {f : List Byte} {n : Nat}
    (hi : transaction s.params i = some (f, n)) (hsteps : microSteps i = 5)
    (hidle : s.seq = .idle → Answers (exec i s)) (hbuf : s.bufOk) (hseq : s.seqOk) (hr : s.Runs i) :
    Answers (exec i s) := by
  cases hs : s.seq with
  | idle => exact hidle hs
  | busy cmd pl k =>
    obtain ⟨htag, hxact⟩ := State.bufOk_iff.1 hbuf
    obtain ⟨hfit, hx⟩ := hxact i k f n (hr.running hs) hi
    obtain ⟨h1, h5⟩ := State.seqOk.range hseq hr hs
    rw [exec_eq_xact hi hs]
    refine State.xact_answers htag hfit hx h1 (by omega) fun u hP => ?_
    exact transactionEnd_answers (hP.symm ▸ hi) (hP.symm ▸ hx.2.1)

/-! ### The multi-step commands of the ClockKeeper, at the micro-steps they have -/

section ClockKeeper

variable {s : State}

theorem execCkread_answers (h : ∀ cmd pl k, s.seq = .busy cmd pl k → 1 ≤ k ∧ k ≤ 14) :
    Answers (execCkread s) := by
  unfold execCkread
  split
  · exact .next _
  · next _ _ k hs =>
    obtain ⟨hpos, hmax⟩ := h _ _ _ hs
    interval_cases k <;> exact .next _

theorem execCkcommit_answers (h : ∀ cmd pl k, s.seq = .busy cmd pl k → 1 ≤ k ∧ k ≤ 10) :
    Answers (execCkcommit s) := by
  unfold execCkcommit
  split
  · exact .next _
  · next _ _ k hs =>
    obtain ⟨hpos, hmax⟩ := h _ _ _ hs
    interval_cases k <;> exact .next _

theorem execSetalm_answers (h : ∀ cmd pl k, s.seq = .busy cmd pl k → 1 ≤ k ∧ k ≤ 5) :
    Answers (execSetalm s) := by
  unfold execSetalm
  split
  · exact .next _
  · next _ _ k hs =>
    obtain ⟨hpos, hmax⟩ := h _ _ _ hs
    interval_cases k <;> exact .next _

theorem execArmalm_answers {m : BitVec 4} (h : ∀ cmd pl k, s.seq = .busy cmd pl k → 1 ≤ k ∧ k ≤ 2) :
    Answers (execArmalm m s) := by
  unfold execArmalm
  split
  · exact .next _
  · next _ _ k hs =>
    obtain ⟨hpos, hmax⟩ := h _ _ _ hs
    interval_cases k <;> exact .next _

end ClockKeeper

/-! ### Every step -/

theorem payload_of_decode_ldfb {cmd : CmdWord} {pl data : List Byte}
    (h : decodeCommand cmd pl = .ok (.ldfb data)) : data = pl := by
  unfold decodeCommand decodeFields at h
  split at h <;> cases h
  rfl

/-- Every command answers in a legal state; LDFB's payload is the port's, which fits (R100). -/
theorem exec_answers {i : Instr} {s : State} (hi : isCommand i = true) (hP : s.params.ok = true)
    (hbuf : s.bufOk) (hseq : s.seqOk) (hr : s.Runs i)
    (hpl : ∀ data, i = .ldfb data → data.length ≤ s.params.fbSize) : Answers (exec i s) := by
  have hsize : 8 ≤ s.params.fbSize := (Params.sizes_of_ok hP).1
  have hlen : s.fblen ≤ s.params.fbSize := hbuf.1.1
  have hrange : ∀ cmd pl k, s.seq = .busy cmd pl k → 1 ≤ k ∧ k ≤ microSteps i :=
    fun _ _ _ hs => State.seqOk.range hseq hr hs
  match i, hi with
  | .bldrd .., _ => exact State.buildFrame_answers (by rw [length_readRequest]; exact hsize)
  | .bldwr .., _ =>
    exact .ite (fun hfits => State.buildFrame_answers (length_writeRequest_le_of_fits hfits)) fun _ => .next _
  | .seal .., _ =>
    exact .ite (fun _ => .next _) fun hfits =>
      State.buildFrame_answers (by rw [length_frame]; exact Nat.le_of_not_lt hfits)
  | .verify, _ => exact .ite (fun _ => .next _) fun _ => State.readFb_answers (by omega) fun _ => .next _
  | .ldfb data, _ => exact execLdfb_answers (hpl data rfl)
  | .rdfb, _ => exact .ite (fun _ => .next _) fun _ => State.readFb_answers (by omega) fun _ => .next _
  | .crc16 .., _ => exact .next _
  | .decf32s .., _ => exact State.payload_answers hlen fun _ => .next _
  | .deci32 .., _ => exact State.payload_answers hlen fun _ => .next _
  | .decu16 .., _ => exact State.payload_answers hlen fun _ => .next _
  | .decstr .., _ => exact .ite (fun _ => .next _) fun _ => State.payload_answers hlen fun _ => .next _
  | .decbcd6 .., _ => exact State.payload_answers hlen fun _ => .next _
  | .rdhold .., _ =>
    refine exec_answers_of_transaction rfl rfl (fun hs => ?_) hbuf hseq hr
    unfold exec execRdhold
    rw [hs]
    exact .next _
  | .wrmult .., _ =>
    refine exec_answers_of_transaction rfl rfl (fun hs => ?_) hbuf hseq hr
    unfold exec execWrmult State.writeMultiple
    rw [hs]
    exact .next _
  | .unlock, _ =>
    refine exec_answers_of_transaction rfl rfl (fun hs => ?_) hbuf hseq hr
    unfold exec execUnlock State.writeMultiple
    rw [hs]
    exact .next _
  | .ckread, _ => exact execCkread_answers hrange
  | .ckcommit, _ => exact execCkcommit_answers hrange
  | .wkday .., _ => exact .next _
  | .setsec .., _ => exact .next _
  | .setmin .., _ => exact .next _
  | .sethour .., _ => exact .next _
  | .setday .., _ => exact .next _
  | .setmon .., _ => exact .next _
  | .setyear .., _ => exact .ite (fun _ => .next _) fun _ => .ite (fun _ => .next _) fun _ => .next _
  | .setalm, _ => exact execSetalm_answers hrange
  | .armalm .., _ => exact execArmalm_answers hrange
  | .rdsnap .., _ => exact .next _
  | .rdstat, _ => exact .next _

theorem State.micro_answers {s : State} (hP : s.params.ok = true) (hbuf : s.bufOk) (hseq : s.seqOk) :
    Answers s.micro := by
  cases hs : s.seq with
  | idle =>
    unfold State.micro
    rw [hs]
    exact .next _
  | busy cmd pl k =>
    cases hd : decodeCommand cmd pl with
    | error e =>
      unfold State.seqOk at hseq
      simp only [hs, hd] at hseq
    | ok i =>
      have hr : s.Runs i := .inr ⟨cmd, pl, k, hs, hd⟩
      rw [State.micro_of_busy hs hd]
      refine exec_answers (isCommand_of_decodeCommand hd) hP hbuf hseq hr fun data e => ?_
      -- a command in progress has a micro-step, and LDFB has none
      have hk := State.seqOk.range hseq hr hs
      rw [e] at hk
      exact absurd (hk.1.trans hk.2) (Nat.not_succ_le_zero 0)

theorem State.issue_answers {s : State} {cmd : CmdWord} {pl : List Byte} (hP : s.params.ok = true)
    (hbuf : s.bufOk) (hidle : s.seq = .idle) (hpl : payloadFits s.params pl = true) :
    Answers (s.issue cmd pl) := by
  cases hd : decodeCommand cmd pl with
  | error e =>
    unfold State.issue
    rw [hd]
    exact .next _
  | ok i =>
    have hfits : pl.length ≤ s.params.fbSize := of_decide_eq_true hpl
    rw [State.issue_of_ok hd hfits]
    refine exec_answers (s := { s with portCmd := cmd, portPl := pl }) (isCommand_of_decodeCommand hd) hP
      (State.bufOk_of_bufferSide rfl rfl hbuf) (State.seqOk_of_idle hidle) (.inl ⟨hidle, hd⟩) fun data e => ?_
    exact payload_of_decode_ldfb (e ▸ hd) ▸ hfits

/-- Settles O59: whoever the head of the agenda lets move answers, in the state in which what is
unspecified is so anew. -/
theorem legalStatesNeverStop : Obligations.LegalStatesNeverStop := by
  intro s hs hin
  obtain ⟨hP, -, -, -, -, hbuf, hseq⟩ := hs
  have hfree : s.renewFree.bufOk := (keptBySteps_bufOk.renew s ⟨hP, hbuf⟩).2
  have hrest : ∀ rest, State.bufOk { s.renewFree with agenda := rest } := fun _ =>
    State.bufOk_of_bufferSide (s := s.renewFree) rfl rfl hfree
  have hseqfree : s.renewFree.seqOk := State.seqOk_congr rfl hseq
  rcases step_cases s with ⟨-, e⟩ | ⟨rest, -, e⟩ | ⟨rest, -, e⟩ | ⟨rest, -, e⟩ | ⟨rest, -, e⟩ |
    ⟨fmt, bytes, rest, -, e⟩ | ⟨cmd, pl, rest, ha, hidle, e⟩ | ⟨cmd, pl, rest, -, -, e⟩ <;> rw [e]
  · exact State.micro_answers hP hfree hseqfree
  · exact State.micro_answers hP (hrest rest) (State.seqOk_congr (s := s) rfl hseq)
  · exact ⟨_, rfl⟩
  · exact ⟨_, rfl⟩
  · exact ⟨_, rfl⟩
  · obtain ⟨tx, rx, e'⟩ := State.carry_eq { s.renewFree with agenda := rest } fmt bytes
    exact ⟨_, e'⟩
  · have hpl : payloadFits s.params pl = true := by
      unfold State.inputOk at hin
      rwa [ha] at hin
    exact State.issue_answers hP (hrest rest) hidle hpl
  · exact State.micro_answers hP hfree hseqfree

end Sys2Proof.Machine
end

section
/-! The operand checks of the ModbusClient's commands (R188, R190, R192), and the values of RESET
(R60, R310 to R312). -/

namespace Sys2Proof.Machine

/-! ### Step 0 -/

/-- The three checks of a write request's payload, said of what they refuse (R136, R190). -/
theorem writeRequestFits_iff {P : Params} {pl : List Byte} : writeRequestFits P pl = true ↔
    ¬ (pl.length % 2 ≠ 0 ∨ P.fbSize < 8 + (if P.wrByteCount then 1 else 0) + pl.length ∨
      ((if P.wrByteCount then 1 else 0) = 1 ∧ 255 < pl.length)) := by
  unfold writeRequestFits
  cases P.wrByteCount <;> simp [and_assoc]

theorem execRdhold_of_idle {a : Byte} {b c : Half} {s : State} (h : s.seq = .idle) :
    execRdhold a b c s =
      .next (if s.params.fbSize < 5 + 2 * c.toNat then s.raise .badArg else s.accept) := by
  unfold execRdhold
  rw [h]
  rfl

theorem State.writeMultiple_of_idle {a : Byte} {b : Half} {pl : List Byte} {s : State} (h : s.seq = .idle) :
    s.writeMultiple a b pl =
      .next (if writeRequestFits s.params pl then s.accept else s.raise .badArg) := by
  unfold State.writeMultiple
  rw [h]

/-- Settles O14: the checks of RDHOLD and of a write, which is WRMULT's and, with the parameters, UNLOCK's. -/
theorem clientChecksOperandsFirst : Obligations.ClientChecksOperandsFirst := by
  intro a b c pl s accepted x
  refine ⟨rfl, fun h => ⟨execRdhold_of_idle h, ?_, fun hkey => ?_⟩⟩
  · refine (State.writeMultiple_of_idle h).trans (congrArg Host.Outcome.next ?_)
    by_cases hfits : writeRequestFits s.params pl = true
    · rw [if_pos hfits, if_neg (writeRequestFits_iff.1 hfits)]
      rfl
    · rw [if_neg hfits, if_pos (not_not.1 (mt writeRequestFits_iff.2 hfits))]
      rfl
  · exact (State.writeMultiple_of_idle h).trans (congrArg Host.Outcome.next (if_pos hkey))

/-! ### RESET -/

theorem step_of_reset {s : State} {rest : List Event} (h : s.agenda = .reset :: rest) :
    step s = .next { s.renewFree with agenda := rest }.resetBlock := by
  unfold step State.nextStep State.headEvent
  simp only [State.renewFree_agenda, h]

/-- Settles O51: `resetBlock` by its fields, in the order of the table: the response and the sequencer,
the buffer, the clock, the control registers and flags, and what is not the block's. -/
theorem resetGivesTheTableOfValues : Obligations.ResetGivesTheTableOfValues := by
  refine ⟨rfl, rfl, fun s rest h => ⟨_, step_of_reset h, ?_⟩⟩
  refine ⟨rfl, rfl, rfl, rfl, rfl, rfl, rfl, rfl, ?_⟩
  refine ⟨fun _ => rfl, rfl, rfl, ?_⟩
  refine ⟨rfl, rfl, rfl, rfl, rfl, rfl, ?_⟩
  refine ⟨rfl, rfl, rfl, rfl, rfl, rfl, ?_⟩
  exact ⟨rfl, rfl, rfl, rfl, rfl, rfl, rfl⟩

end Sys2Proof.Machine
end

section
/-! Non-interference (R43, R160, R238): two states that differ only in the free bytes and in the length of
an unspecified buffer stay so through every instruction, since what it reads of the buffer is specified. -/

namespace Sys2Proof.Machine

/-! ### Varying what is unspecified -/

/-- The same state with another epoch of free values and another length. -/
def State.vary (s : State) (e m : Nat) : State := { s with freeCount := e, fblen := m }

/-- If `r` answers a state, `r'` answers that state with what is unspecified varied. -/
def VariesTo (r r' : Result) : Prop := ∀ t, r = .next t → ∃ e m, r' = .next (t.vary e m)

theorem VariesTo.next (t : State) (e m : Nat) : VariesTo (.next t) (.next (t.vary e m)) := by
  intro t' h
  cases h
  exact ⟨e, m, rfl⟩

theorem VariesTo.fault {f : Fault} {r : Result} : VariesTo (.fault f) r :=
  fun _ h => nomatch h

theorem State.busy_of_running {s : State} {i : Instr} {k : Nat} (h : s.running = some (i, k)) :
    ∃ cmd pl, s.seq = .busy cmd pl k := by
  unfold State.running at h
  split at h
  · cases h
  · split at h
    · cases h
      exact ⟨_, _, ‹_›⟩
    · cases h

theorem State.goto_vary (s : State) (e m k : Nat) : (s.vary e m).goto k = (s.goto k).vary e m := by
  cases h : s.seq with
  | idle => rw [State.goto_idle h, State.goto_idle (s := s.vary e m) h]
  | busy cmd pl j =>
    rw [State.goto_busy h, State.goto_busy (s := s.vary e m) h]
    rfl

theorem VariesTo.goto (t : State) (e m k : Nat) :
    VariesTo (.next (t.goto k)) (.next ((t.vary e m).goto k)) := by
  rw [State.goto_vary]
  exact .next _ e m

theorem VariesTo.ite {p : Prop} [Decidable p] {a b a' b' : Result} (ha : p → VariesTo a a')
    (hb : ¬ p → VariesTo b b') : VariesTo (if p then a else b) (if p then a' else b') := by
  split
  · exact ha ‹_›
  · exact hb ‹_›

theorem VariesTo.nextIte {p : Prop} [Decidable p] {a b a' b' : State} (ha : VariesTo (.next a) (.next a'))
    (hb : VariesTo (.next b) (.next b')) :
    VariesTo (.next (if p then a else b)) (.next (if p then a' else b')) := by
  split
  · exact ha
  · exact hb

/-! ### The buffer -/

theorem State.specified.mono {s : State} {n k : Nat} (h : s.specified n) (hk : k ≤ n) : s.specified k :=
  fun i hi => h i (Nat.lt_of_lt_of_le hi hk)

theorem State.fbByte_vary {s : State} {i : Nat} (h : (Memory.get? s.fb i).isSome = true) (e m : Nat) :
    (s.vary e m).fbByte i = s.fbByte i := by
  obtain ⟨b, hb⟩ := Option.isSome_iff_exists.1 h
  rw [State.fbByte_specified hb]
  exact State.fbByte_specified hb

theorem State.fbBytes_vary {s : State} {off n : Nat} (h : s.specified (off + n)) (e m : Nat) :
    (s.vary e m).fbBytes off n = s.fbBytes off n :=
  State.fbBytes_congr fun j hj => State.fbByte_vary (h (off + j) (by omega)) e m

section Operations

variable {s : State} {e m : Nat}

theorem VariesTo.readFb {off n : Nat} {cont cont' : List Byte → Result} (hspec : s.specified (off + n))
    (h : ∀ bs, VariesTo (cont bs) (cont' bs)) :
    VariesTo (s.readFb off n cont) ((s.vary e m).readFb off n cont') := by
  intro t ht
  obtain ⟨hle, ht⟩ := State.readFb_next ht
  rw [State.readFb_of_le (s := s.vary e m) hle, State.fbBytes_vary hspec]
  exact h _ t ht

theorem VariesTo.writeFb {off : Nat} {bs : List Byte} {cont cont' : State → Result}
    (h : VariesTo (cont { s with fb := Memory.setList s.fb off bs })
      (cont' (State.vary { s with fb := Memory.setList s.fb off bs } e m))) :
    VariesTo (s.writeFb off bs cont) ((s.vary e m).writeFb off bs cont') := by
  intro t ht
  obtain ⟨hle, ht⟩ := State.writeFb_next ht
  rw [State.writeFb_of_le (s := s.vary e m) hle]
  exact h t ht

theorem VariesTo.buildFrame (f : List Byte) : VariesTo (s.buildFrame f) ((s.vary e m).buildFrame f) := by
  unfold State.buildFrame State.loadFb
  exact .writeFb (.next _ e f.length)

/-- A decoder reads only inside a frame that verifies, where the length is as it was. -/
theorem VariesTo.payload {off w : Nat} {cont cont' : List Byte → Result} (htag : s.tagOk)
    (hm : s.fbk ≠ .unspec → m = s.fblen) (h : ∀ bs, VariesTo (cont bs) (cont' bs)) :
    VariesTo (s.payload off w cont) ((s.vary e m).payload off w cont') := by
  unfold State.payload
  refine .ite (fun _ => .next _ e m) fun hgood => ?_
  have hspec : s.fbk ≠ .unspec := by rw [not_not.1 hgood]; decide
  cases hm hspec
  refine .ite (fun _ => .next _ e _) fun hw => .readFb ?_ h
  exact (htag.2.2.2.2 hspec).mono (by omega)

/-! ### The steps of a transaction -/

theorem VariesTo.xactSend (htag : s.tagOk) (hgood : s.fbk = .good) (hm : s.fbk ≠ .unspec → m = s.fblen) :
    VariesTo s.xactSend (s.vary e m).xactSend := by
  have hspec : s.fbk ≠ .unspec := by rw [hgood]; decide
  have hall : s.specified s.fblen := htag.2.2.2.2 hspec
  cases hm hspec
  unfold State.xactSend
  refine .ite (fun hidx => .readFb (hall.mono hidx) fun _ => ?_) fun _ => .goto s e _ 3
  have hbyte : (s.vary e s.fblen).fbByte (s.vary e s.fblen).idx = s.fbByte s.idx :=
    State.fbByte_vary (hall _ hidx) e _
  rw [hbyte]
  exact .goto _ e _ _

theorem VariesTo.xactPoll : VariesTo s.xactPoll (s.vary e m).xactPoll := by
  cases hrx : s.rxNext with
  | some b =>
    rw [State.xactPoll_of_some hrx, State.xactPoll_of_some (s := s.vary e m) hrx]
    refine .writeFb ?_
    exact .ite (fun _ => .goto _ _ _ 5) fun _ => .next _ _ _
  | none =>
    rw [State.xactPoll_of_none hrx, State.xactPoll_of_none (s := s.vary e m) hrx]
    exact .ite (fun _ => .next _ _ _) fun _ => .next _ _ _

theorem VariesTo.xactCheck {ok : State → Result} (hspec : s.specified s.explen)
    (hok : ∀ u : State, u.fb = s.fb → VariesTo (ok u) (ok (u.vary e s.explen))) :
    VariesTo (s.xactCheck ok) ((s.vary e m).xactCheck ok) := by
  unfold State.xactCheck
  refine .readFb (hspec.mono (by omega)) fun bs => ?_
  exact .ite (fun _ => hok _ rfl) fun _ => .next _ e _

theorem transactionEnd_varies {i : Instr} {f : List Byte} {n : Nat} {P : Params}
    (hi : transaction P i = some (f, n)) (hspec : s.specified n) :
    VariesTo (transactionEnd i s) (transactionEnd i (s.vary e m)) := by
  match i, hi with
  | .rdhold _ _ c, rfl =>
    have hpayload : s.specified (3 + 2 * c.toNat) := hspec.mono (by unfold readRspLen; omega)
    unfold transactionEnd
    exact .readFb hpayload fun _ => .next _ e m
  | .wrmult .., _ => exact .next _ e m
  | .unlock, _ => exact .next _ e m

theorem VariesTo.xactBuild {f : List Byte} : VariesTo (s.xactBuild f) ((s.vary e m).xactBuild f) := by
  unfold State.xactBuild State.loadFb
  exact .writeFb (.goto _ e f.length 2)

theorem VariesTo.xact {k : Nat} {f : List Byte} {n : Nat} {i : Instr} {P : Params}
    (hi : transaction P i = some (f, n)) (htag : s.tagOk) (hx : s.xactOk k n)
    (hm : s.fbk ≠ .unspec → m = s.fblen) :
    VariesTo (s.xact k f n (transactionEnd i)) ((s.vary e m).xact k f n (transactionEnd i)) := by
  obtain ⟨-, -, hstep⟩ := hx
  match k, hstep with
  | 0, _ => exact .fault
  | 1, _ => exact .xactBuild
  | 2, hgood => exact .xactSend htag hgood hm
  | 3, _ => exact .goto _ _ _ 4
  | 4, _ => exact .xactPoll
  | 5, hcheck =>
    obtain ⟨-, hexp, -, hspec⟩ := hcheck
    refine .xactCheck (hexp.symm ▸ hspec) fun u hu => transactionEnd_varies hi fun j hj => ?_
    rw [hu]
    exact hspec j hj
  | _ + 6, _ => exact .fault

theorem VariesTo.rdhold_of_idle {a : Byte} {b c : Half} (h : s.seq = .idle) :
    VariesTo (execRdhold a b c s) (execRdhold a b c (s.vary e m)) := by
  rw [execRdhold_of_idle h, execRdhold_of_idle (s := s.vary e m) h]
  exact .nextIte (.next _ e m) (.next _ e m)

theorem VariesTo.writeMultiple_of_idle {a : Byte} {b : Half} {pl : List Byte} (h : s.seq = .idle) :
    VariesTo (s.writeMultiple a b pl) ((s.vary e m).writeMultiple a b pl) := by
  rw [State.writeMultiple_of_idle h, State.writeMultiple_of_idle (s := s.vary e m) h]
  exact .nextIte (.next _ e m) (.next _ e m)

/-- RDHOLD, WRMULT and UNLOCK: accepted or refused from Idle, a step of their transaction otherwise. -/
theorem VariesTo.client {i : Instr} {f : List Byte} {n : Nat} (hi : transaction s.params i = some (f, n))
    (hbuf : s.bufOk) (hm : s.fbk ≠ .unspec → m = s.fblen)
    (hruns : s.seq = .idle ∨ ∃ k, s.running = some (i, k)) :
    VariesTo (exec i s) (exec i (s.vary e m)) := by
  obtain ⟨htag, hxact⟩ := State.bufOk_iff.1 hbuf
  obtain hidle | ⟨k, hk⟩ := hruns
  · match i, hi with
    | .rdhold .., _ => exact .rdhold_of_idle hidle
    | .wrmult .., _ => exact .writeMultiple_of_idle hidle
    | .unlock, _ => exact .writeMultiple_of_idle hidle
  · obtain ⟨cmd, pl, hbusy⟩ := State.busy_of_running hk
    obtain ⟨-, hx⟩ := hxact i k f n hk hi
    rw [exec_eq_xact hi hbusy, exec_eq_xact (s := s.vary e m) hi hbusy]
    exact .xact hi htag hx hm

/-! ### The multi-step commands of the ClockKeeper, which do not look at the buffer -/

theorem VariesTo.endRead : VariesTo (.next s.endRead) (.next (s.vary e m).endRead) := by
  unfold State.endRead
  exact .nextIte (.next _ e m) (.next _ e m)

theorem State.writeRtcw_vary (s : State) (e m : Nat) (i : Fin 4) (v : Half) :
    (s.vary e m).writeRtcw i v = (s.writeRtcw i v).vary e m :=
  (apply_ite (State.vary · e m) (s.wren = true) { s with rtcw := writeWord s.rtcw i v } s).symm

theorem VariesTo.writeRtcw_goto (i : Fin 4) (v : Half) (k : Nat) :
    VariesTo (.next ((s.writeRtcw i v).goto k)) (.next (((s.vary e m).writeRtcw i v).goto k)) := by
  rw [State.writeRtcw_vary]
  exact .goto _ e m k

theorem VariesTo.ckread : VariesTo (execCkread s) (execCkread (s.vary e m)) := by
  unfold execCkread
  cases h : s.seq with
  | idle =>
    rw [show (s.vary e m).seq = .idle from h]
    exact .next _ e m
  | busy cmd pl k =>
    rw [show (s.vary e m).seq = .busy cmd pl k from h]
    dsimp only
    split
    case h_14 => exact .endRead (s := s.readChk .year)
    case h_15 => exact .fault
    all_goals exact .goto _ e m _

theorem VariesTo.ckcommit : VariesTo (execCkcommit s) (execCkcommit (s.vary e m)) := by
  unfold execCkcommit
  cases h : s.seq with
  | idle =>
    rw [show (s.vary e m).seq = .idle from h]
    exact .next _ e m
  | busy cmd pl k =>
    rw [show (s.vary e m).seq = .busy cmd pl k from h]
    dsimp only
    match k with
    | 0 => exact .fault
    | 1 => exact .goto _ e m 2
    | 2 => exact .goto _ e m 3
    | 3 => exact .goto _ e m 4
    | 4 => exact .goto _ e m 5
    | 5 => exact .goto _ e m 6
    | 6 => exact .writeRtcw_goto _ _ 7
    | 7 => exact .writeRtcw_goto _ _ 8
    | 8 => exact .writeRtcw_goto _ _ 9
    | 9 => exact .writeRtcw_goto _ _ 10
    | 10 => exact .next _ e m
    | _ + 11 => exact .fault

theorem VariesTo.setalm : VariesTo (execSetalm s) (execSetalm (s.vary e m)) := by
  unfold execSetalm
  cases h : s.seq with
  | idle =>
    rw [show (s.vary e m).seq = .idle from h]
    exact .next _ e m
  | busy cmd pl k =>
    rw [show (s.vary e m).seq = .busy cmd pl k from h]
    dsimp only
    match k with
    | 0 => exact .fault
    | 1 => exact .goto _ e m 2
    | 2 => exact .goto _ e m 3
    | 3 => exact .goto _ e m 4
    | 4 => exact .goto _ e m 5
    | 5 => exact .next _ e m
    | _ + 6 => exact .fault

theorem VariesTo.armalm (x : BitVec 4) : VariesTo (execArmalm x s) (execArmalm x (s.vary e m)) := by
  unfold execArmalm
  cases h : s.seq with
  | idle =>
    rw [show (s.vary e m).seq = .idle from h]
    exact .next _ e m
  | busy cmd pl k =>
    rw [show (s.vary e m).seq = .busy cmd pl k from h]
    dsimp only
    match k with
    | 0 => exact .fault
    | 1 => exact .nextIte (.next _ e m) (.goto _ e m 2)
    | 2 => exact .next _ e m
    | _ + 3 => exact .fault

/-! ### The commands of one step -/

theorem VariesTo.setField (a : Byte) (xw : Nat × Bool) (inPri : Snap → Byte → Snap)
    (inAlm : AlarmSnap → Byte → AlarmSnap) : VariesTo (.next (s.setField a xw inPri inAlm))
      (.next ((s.vary e m).setField a xw inPri inAlm)) := by
  unfold State.setField
  exact .nextIte (.next _ e m) (.nextIte (.next _ e m) (.next _ e m))

theorem VariesTo.rdsnap (a : Byte) : VariesTo (execRdsnap a s) (execRdsnap a (s.vary e m)) :=
  .nextIte (.next _ e m) (.nextIte (.next _ e m) (.nextIte (.next _ e m) (.next _ e m)))

/-- RDSTAT shows the length only while it is specified. -/
theorem VariesTo.rdstat (hm : s.fbk ≠ .unspec → m = s.fblen) :
    VariesTo (execRdstat s) (execRdstat (s.vary e m)) := by
  have hlen : (s.vary e m).statusLength = s.statusLength := by
    by_cases hu : s.fbk = .unspec
    · exact (if_pos hu).trans (if_pos hu).symm
    · cases hm hu
      rfl
  have hword : (s.vary e m).statusWord = s.statusWord := by
    unfold State.statusWord
    rw [hlen]
    rfl
  unfold execRdstat
  rw [hword]
  exact .next _ e m

theorem VariesTo.verify (htag : s.tagOk) (hm : s.fbk ≠ .unspec → m = s.fblen) :
    VariesTo (execVerify s) (execVerify (s.vary e m)) := by
  unfold execVerify
  refine .ite (fun _ => .next _ e m) fun hkind => ?_
  have hspec : s.fbk ≠ .unspec := fun hu => hkind (.inr hu)
  cases hm hspec
  exact .readFb ((htag.2.2.2.2 hspec).mono (by omega)) fun _ => .next _ e _

theorem VariesTo.rdfb (htag : s.tagOk) (hm : s.fbk ≠ .unspec → m = s.fblen) :
    VariesTo (execRdfb s) (execRdfb (s.vary e m)) := by
  unfold execRdfb
  refine .ite (fun _ => .next _ e m) fun hspec => ?_
  cases hm hspec
  exact .readFb ((htag.2.2.2.2 hspec).mono (by omega)) fun _ => .next _ e _

theorem VariesTo.ldfb (bs : List Byte) : VariesTo (execLdfb bs s) (execLdfb bs (s.vary e m)) := by
  unfold execLdfb State.loadFb
  exact .writeFb (.next _ e bs.length)

/-! ### Every instruction -/

theorem VariesTo.exec (i : Instr) (hbuf : s.bufOk) (hm : s.fbk ≠ .unspec → m = s.fblen)
    (hruns : s.seq = .idle ∨ ∃ k, s.running = some (i, k)) :
    VariesTo (exec i s) (exec i (s.vary e m)) := by
  have htag : s.tagOk := hbuf.1
  match i with
  | .bldrd .. => exact .buildFrame _
  | .bldwr .. => exact .ite (fun _ => .buildFrame _) fun _ => .next _ e m
  | .seal _ => exact .ite (fun _ => .next _ e m) fun _ => .buildFrame _
  | .verify => exact .verify htag hm
  | .ldfb bs => exact .ldfb bs
  | .rdfb => exact .rdfb htag hm
  | .crc16 _ => exact .next _ e m
  | .decf32s _ => exact .payload htag hm fun _ => .next _ e m
  | .deci32 _ => exact .payload htag hm fun _ => .next _ e m
  | .decu16 _ => exact .payload htag hm fun _ => .next _ e m
  | .decstr .. => exact .ite (fun _ => .next _ e m) fun _ => .payload htag hm fun _ => .next _ e m
  | .decbcd6 _ => exact .payload htag hm fun _ => .next _ e m
  | .rdhold .. => exact .client rfl hbuf hm hruns
  | .wrmult .. => exact .client rfl hbuf hm hruns
  | .unlock => exact .client rfl hbuf hm hruns
  | .ckread => exact .ckread
  | .ckcommit => exact .ckcommit
  | .wkday .. => exact .nextIte (.next _ e m) (.next _ e m)
  | .setsec .. => exact .setField _ _ _ _
  | .setmin .. => exact .setField _ _ _ _
  | .sethour .. => exact .setField _ _ _ _
  | .setday .. => exact .setField _ _ _ _
  | .setmon .. => exact .setField _ _ _ _
  | .setyear .. =>
    exact .ite (fun _ => .next _ e m) fun _ => .ite (fun _ => .next _ e m) fun _ => .next _ e m
  | .setalm => exact .setalm
  | .armalm x => exact .armalm x
  | .rdsnap a => exact .rdsnap a
  | .rdstat => exact .rdstat hm
  | .req03 .. => exact .next _ e m
  | .req16 .. => exact .next _ e m
  | .rsp03 .. => exact .next _ e m
  | .rsp16 .. => exact .next _ e m

end Operations

/-- Settles O44: what an instruction answers varies only in what is unspecified. -/
theorem unspecifiedBytesNeverReachAResult : Obligations.UnspecifiedBytesNeverReachAResult := by
  intro i s t e m hbuf hruns h
  have hvaries : VariesTo (exec i s) (exec i (s.vary e (if s.fbk = .unspec then m else s.fblen))) :=
    .exec i hbuf (fun hspec => if_neg hspec) hruns
  obtain ⟨e', m', ht'⟩ := hvaries t h
  exact ⟨t.vary e' m', ht', rfl, rfl, rfl, rfl, rfl, rfl, rfl⟩

end Sys2Proof.Machine
end

section
/-! The number decoders inside the payload window (R73, R162 to R166): the bytes of the window as the
number they spell, most significant first. -/

namespace Sys2Proof.Machine

/-! ### Bytes put together -/

theorem toNat_setWidth_byte {w : Nat} (hw : 8 ≤ w) (b : Byte) : (b.setWidth w).toNat = b.toNat := by
  rw [BitVec.toNat_setWidth, Nat.mod_eq_of_lt (b.isLt.trans_le (Nat.pow_le_pow_right (by decide) hw))]

/-- A byte put above the bits of `y` adds its value at that place. -/
theorem toNat_byte_shiftLeft_or {w k : Nat} (b : Byte) {y : BitVec w} (hk : k + 8 ≤ w)
    (hy : y.toNat < 2 ^ k) : (b.setWidth w <<< k ||| y).toNat = b.toNat * 2 ^ k + y.toNat := by
  have hfits : b.toNat * 2 ^ k < 2 ^ w :=
    calc b.toNat * 2 ^ k < 2 ^ 8 * 2 ^ k := Nat.mul_lt_mul_of_pos_right b.isLt (Nat.two_pow_pos k)
      _ = 2 ^ (k + 8) := by rw [← Nat.pow_add, Nat.add_comm]
      _ ≤ 2 ^ w := Nat.pow_le_pow_right (by decide) hk
  rw [BitVec.toNat_or, BitVec.toNat_shiftLeft, toNat_setWidth_byte (by omega), Nat.shiftLeft_eq,
    Nat.mod_eq_of_lt hfits, ← Nat.shiftLeft_eq, ← Nat.shiftLeft_add_eq_or_of_lt hy, Nat.shiftLeft_eq]

theorem toNat_word32 (b3 b2 b1 b0 : Byte) : (word32 b3 b2 b1 b0).toNat =
    b3.toNat * 2 ^ 24 + b2.toNat * 2 ^ 16 + b1.toNat * 2 ^ 8 + b0.toNat := by
  have h0 : (b0.setWidth 32).toNat = b0.toNat := toNat_setWidth_byte (by decide) b0
  have h1 := toNat_byte_shiftLeft_or (w := 32) (k := 8) b1 (by decide) (h0.trans_lt b0.isLt)
  have h2 := toNat_byte_shiftLeft_or (w := 32) (k := 16) b2 (by decide) (h1.trans_lt (by omega))
  have h3 := toNat_byte_shiftLeft_or (w := 32) (k := 24) b3 (by decide) (h2.trans_lt (by omega))
  rw [word32, BitVec.or_assoc, BitVec.or_assoc, h3, h2, h1, h0, Nat.add_assoc, Nat.add_assoc]

theorem word32_eq_ofNat (b3 b2 b1 b0 : Byte) : word32 b3 b2 b1 b0 =
    BitVec.ofNat 32 (b3.toNat * 2 ^ 24 + b2.toNat * 2 ^ 16 + b1.toNat * 2 ^ 8 + b0.toNat) := by
  rw [← toNat_word32, BitVec.ofNat_toNat, BitVec.setWidth_eq]

/-! ### The numbers of a window of the buffer -/

theorem float32Swapped_fbBytes (s : State) (off : Nat) (k : Perm4) :
    float32Swapped k (s.fbBytes off 4) = BitVec.ofNat 32
      ((s.fbByte (off + k.k0)).toNat * 2 ^ 24 + (s.fbByte (off + k.k1)).toNat * 2 ^ 16 +
        (s.fbByte (off + k.k2)).toNat * 2 ^ 8 + (s.fbByte (off + k.k3)).toNat) := by
  rw [float32Swapped, word32_eq_ofNat, State.getD_fbBytes _ _ _ _ k.k0.isLt,
    State.getD_fbBytes _ _ _ _ k.k1.isLt, State.getD_fbBytes _ _ _ _ k.k2.isLt,
    State.getD_fbBytes _ _ _ _ k.k3.isLt]

/-- Big-endian is the order in which the bytes stand. -/
theorem int32BE_eq_float32Swapped (p : List Byte) : int32BE p = float32Swapped ⟨0, 1, 2, 3⟩ p := rfl

theorem uint16BE_fbBytes (s : State) (off : Nat) : uint16BE (s.fbBytes off 2) =
    BitVec.ofNat 32 ((s.fbByte off).toNat * 2 ^ 8 + (s.fbByte (off + 1)).toNat) := by
  have h0 := toNat_setWidth_byte (w := 16) (by decide) (s.fbByte (off + 1))
  have h1 := toNat_byte_shiftLeft_or (w := 16) (k := 8) (s.fbByte off) (by decide)
    (h0.trans_lt (s.fbByte (off + 1)).isLt)
  rw [uint16BE, State.getD_fbBytes _ _ _ _ (by decide), State.getD_fbBytes _ _ _ _ (by decide),
    ← BitVec.ofNat_toNat, Nat.add_zero, h1, h0]

/-! ### The three commands -/

section
variable {c : Half} {s : State}

theorem exec_deci32_of_inside (hg : s.fbk = .good) (hw : 5 + c.toNat + 4 ≤ s.fblen)
    (hs : s.fblen ≤ s.params.fbSize) : exec (.deci32 c) s =
      .next (s.responded (int32BE (s.fbBytes (3 + c.toNat) 4)) [] false) :=
  State.payload_of_inside hg hw hs

theorem exec_decu16_of_inside (hg : s.fbk = .good) (hw : 5 + c.toNat + 2 ≤ s.fblen)
    (hs : s.fblen ≤ s.params.fbSize) : exec (.decu16 c) s =
      .next (s.responded (uint16BE (s.fbBytes (3 + c.toNat) 2)) [] false) :=
  State.payload_of_inside hg hw hs

theorem exec_decf32s_of_inside (hg : s.fbk = .good) (hw : 5 + c.toNat + 4 ≤ s.fblen)
    (hs : s.fblen ≤ s.params.fbSize) : exec (.decf32s c) s =
      .next (s.responded (float32Swapped s.params.f32Perm (s.fbBytes (3 + c.toNat) 4)) [] false) :=
  State.payload_of_inside hg hw hs

end

/-- Settles O11: each command returns the number that the window's bytes spell in its order. -/
theorem numberDecodersUseTheirByteOrders : Obligations.NumberDecodersUseTheirByteOrders := by
  intro c s hg hs p k
  have hfloat : 5 + c.toNat + 4 ≤ s.fblen → exec (.decf32s c) s = .next (s.responded
      (BitVec.ofNat 32 (p k.k0 * 2 ^ 24 + p k.k1 * 2 ^ 16 + p k.k2 * 2 ^ 8 + p k.k3)) [] false) := by
    intro hw
    rw [exec_decf32s_of_inside hg hw hs, float32Swapped_fbBytes]
  refine ⟨fun hw => ?_, fun hw => ?_, hfloat, fun hw hk => ?_⟩
  · rw [exec_deci32_of_inside hg hw hs, int32BE_eq_float32Swapped, float32Swapped_fbBytes]
    rfl
  · rw [exec_decu16_of_inside hg hw hs, uint16BE_fbBytes]
    rfl
  · rw [hfloat hw, hk]
    rfl

end Sys2Proof.Machine
end

section
/-! What passes on the wire (R84, R85, R104 to R110): a decoded frame encodes to the bytes it was read
from, so a frame and bytes that are none are carried alike. -/

namespace Sys2Proof.Machine

/-! ### A decoded frame keeps its bytes -/

theorem be16_append (hi lo : Byte) : be16 (hi ++ lo) = [hi, lo] := by
  simp only [be16, hiByte, loByte, BitVec.extractLsb'_append_eq_left, BitVec.extractLsb'_append_eq_right]

theorem encode_of_decodeFrame {bc : Bool} {fmt : WireFormat} {bytes : List Byte} {i : Instr}
    (h : decodeFrame bc fmt bytes = .ok i) : encode i = .wire fmt bytes := by
  unfold decodeFrame at h
  cases fmt with
  | req03 =>
    dsimp only at h
    split at h
    · split at h
      · next hfc =>
        cases h
        simp [encode, req03Bytes, be16_append, hfc]
      · cases h
    · cases h
  | req16 =>
    dsimp only at h
    split at h
    · next rest =>
      split at h
      · next hfc =>
        split at h
        · next body l h' hsplit =>
          rw [splitChecksum_some _ hsplit]
          split at h
          · split at h
            · cases h
              simp [encode, req16Bytes, be16_append, hfc]
            · cases h
          · cases h
            simp [encode, req16Bytes, be16_append, hfc]
        · cases h
      · cases h
    · cases h
  | rsp03 =>
    dsimp only at h
    split at h
    · split at h
      · next hfc =>
        split at h
        · next hsplit =>
          cases h
          rw [splitChecksum_some _ hsplit, hfc]
          rfl
        · cases h
      · cases h
    · cases h
  | rsp16 =>
    dsimp only at h
    split at h
    · next hsplit =>
      cases h
      rw [splitChecksum_some _ hsplit]
      rfl
    · cases h

/-! ### The wire carries bytes -/

/-- A frame is executed by carrying the bytes it encodes to: a request's are logged as sent, a response's
wait for later polls (log 9). -/
theorem exec_of_wire {i : Instr} {fmt : WireFormat} {bytes : List Byte} (h : encode i = .wire fmt bytes)
    (s : State) : exec i s =
      .next (if fmt = .req03 ∨ fmt = .req16 then s.wireOut bytes else s.wireIn bytes) :=
  match i, h with
  | .req03 .., rfl => rfl
  | .req16 .., rfl => rfl
  | .rsp03 .., rfl => rfl
  | .rsp16 .., rfl => rfl

/-- A frame of its format or not, the same bytes are carried (R110, R194; log 16). -/
theorem State.carry_bytes (s : State) (fmt : WireFormat) (bytes : List Byte) : s.carry fmt bytes =
    .next (if fmt = .req03 ∨ fmt = .req16 then s.wireOut bytes else s.wireIn bytes) := by
  cases hd : decodeFrame s.params.wrByteCount fmt bytes with
  | ok i => rw [State.carry_of_ok hd, exec_of_wire (encode_of_decodeFrame hd)]
  | error e => exact State.carry_of_error hd

/-- Settles O60: the wire's move at the head of the agenda, in the direction of the format. -/
theorem wireEventsCarryAnyBytes : Obligations.WireEventsCarryAnyBytes := by
  intro s fmt bytes rest ha
  rw [step_of_wire ha, State.carry_bytes]
  refine ⟨fun hout => ?_, fun hin => ?_⟩
  · rw [if_pos hout]
    rfl
  · have hnot : ¬ (fmt = .req03 ∨ fmt = .req16) := by rcases hin with rfl | rfl <;> decide
    rw [if_neg hnot]
    rfl

/-- Settles O45: each row carries the bytes its frame encodes to. -/
theorem wireFramesPassUnchanged : Obligations.WireFramesPassUnchanged := by
  intro sl a n ko k pl body l h s
  exact ⟨exec_of_wire (i := .req03 sl a n l h) rfl s, exec_of_wire (i := .req16 sl a n ko pl l h) rfl s,
    exec_of_wire (i := .rsp03 sl k pl l h) rfl s, exec_of_wire (i := .rsp16 body l h) rfl s⟩

end Sys2Proof.Machine
end

section
/-! Half duplex (R84 to R86): of a command's steps only step 2 of a transaction touches what is sent, and
only step 4 touches what waits for the polls. -/

namespace Sys2Proof.Machine

/-! ### The wire's side of the state -/

/-- The bytes sent, the answers that wait, and the polls made. -/
structure WireSide where
  tx : List Byte
  rx : List (Option Byte)
  rxCount : Nat

def State.wireSide (s : State) : WireSide := ⟨s.tx, s.rx, s.rxCount⟩

theorem State.wireSide_eq_iff {s t : State} :
    t.wireSide = s.wireSide ↔ t.tx = s.tx ∧ t.rx = s.rx ∧ t.rxCount = s.rxCount :=
  (WireSide.mk.injEq ..).to_iff

@[simp] theorem State.goto_wireSide (s : State) (k : Nat) : (s.goto k).wireSide = s.wireSide := by
  unfold State.goto
  split <;> rfl

@[simp] theorem State.writeRtcw_wireSide (s : State) (i : Fin 4) (v : Half) :
    (s.writeRtcw i v).wireSide = s.wireSide := by
  unfold State.writeRtcw
  split <;> rfl

theorem State.endRead_wireSide (s : State) : s.endRead.wireSide = s.wireSide := by
  rcases State.endRead_cases s with e | e <;> rw [e] <;> rfl

/-! ### The commands of the ClockKeeper -/

theorem execCkread_wireSide {s t : State} {cmd : CmdWord} {pl : List Byte} {k : Nat}
    (hbusy : s.seq = .busy cmd pl k) (h : execCkread s = .next t) : t.wireSide = s.wireSide := by
  rcases execCkread_next hbusy h with ⟨f, -, rfl⟩ | ⟨f, -, rfl⟩ | rfl
  · exact State.goto_wireSide ..
  · exact State.goto_wireSide ..
  · exact State.endRead_wireSide ..

theorem execCkcommit_wireSide {s t : State} (h : execCkcommit s = .next t) : t.wireSide = s.wireSide := by
  unfold execCkcommit at h
  split at h
  · cases h
    rfl
  · split at h <;> cases h
    case h_6 | h_7 | h_8 | h_9 => exact (State.goto_wireSide ..).trans (State.writeRtcw_wireSide ..)
    case h_10 => rfl
    all_goals exact State.goto_wireSide ..

theorem execSetalm_wireSide {s t : State} (h : execSetalm s = .next t) : t.wireSide = s.wireSide := by
  unfold execSetalm at h
  split at h
  · cases h
    rfl
  · split at h <;> cases h
    case h_5 => rfl
    all_goals exact State.goto_wireSide ..

theorem execArmalm_wireSide {s t : State} {cmd : CmdWord} {pl : List Byte} {k : Nat} {m : BitVec 4}
    (hbusy : s.seq = .busy cmd pl k) (h : execArmalm m s = .next t) : t.wireSide = s.wireSide := by
  rcases execArmalm_next hbusy h with rfl | ⟨-, rfl⟩ | rfl
  · rfl
  · exact State.goto_wireSide ..
  · rfl

/-! ### A transaction -/

/-- Step `k` of a transaction is step 2 and receives nothing, or is step 4 and sends nothing. -/
def TransfersAt (k : Nat) (s t : State) : Prop :=
  (k = 2 ∧ t.rxCount = s.rxCount ∧ t.rx = s.rx) ∨ (k = 4 ∧ t.tx = s.tx)

theorem State.xactSend_received {s t : State} (h : s.xactSend = .next t) :
    t.rxCount = s.rxCount ∧ t.rx = s.rx := by
  rcases State.xactSend_next h with ⟨-, -, rfl⟩ | ⟨-, rfl⟩
  all_goals exact ⟨State.goto_rxCount .., State.goto_rx ..⟩

theorem State.xactPoll_tx {s t : State} (h : s.xactPoll = .next t) : t.tx = s.tx := by
  rcases State.xactPoll_cases s with ⟨b, -, e⟩ | ⟨-, e⟩ <;> rw [e] at h
  · obtain ⟨-, ⟨-, rfl⟩ | ⟨-, rfl⟩⟩ := State.xactByte_next h
    · exact State.goto_tx ..
    · rfl
  · rcases State.xactNone_cases s.renewFree.rxAdvance with ⟨-, e⟩ | ⟨-, e⟩ <;> rw [e] at h <;> cases h <;> rfl

theorem State.xact_halfDuplex {s t : State} {k : Nat} {f : List Byte} {n : Nat} {ok : State → Result}
    (h : s.xact k f n ok = .next t) (hok : ∀ u, ok u = .next t → ∃ r rb, t = u.done r rb false) :
    t.wireSide = s.wireSide ∨ TransfersAt k s t := by
  rcases State.xact_next h with ⟨-, h⟩ | ⟨hk, h⟩ | ⟨-, rfl⟩ | ⟨hk, h⟩ | ⟨-, h⟩
  · obtain ⟨-, rfl⟩ := State.xactBuild_next h
    exact .inl (State.goto_wireSide ..)
  · exact .inr (.inl ⟨hk, State.xactSend_received h⟩)
  · exact .inl (State.goto_wireSide ..)
  · exact .inr (.inr ⟨hk, State.xactPoll_tx h⟩)
  · obtain ⟨-, ⟨-, h⟩ | ⟨-, rfl⟩⟩ := State.xactCheck_next h
    · obtain ⟨r, rb, rfl⟩ := hok _ h
      exact .inl rfl
    · exact .inl rfl

/-! ### Every command -/

theorem Ran.halfDuplex {i : Instr} {s t : State} (h : Ran i s t) : t.wireSide = s.wireSide ∨
    (transaction s.params i).isSome = true ∧ ∃ cmd pl k, s.seq = .busy cmd pl k ∧ TransfersAt k s t := by
  cases h with
  | failed | answered | loaded | tagged | set | accepted => exact .inl rfl
  | transacted hbusy _ hi hstep _ hok =>
    have hx : (transaction s.params i).isSome = true := by rw [hi]; rfl
    exact (State.xact_halfDuplex hstep hok).imp_right fun htransfer => ⟨hx, _, _, _, hbusy, htransfer⟩
  | read _ hbusy hstep => exact .inl (execCkread_wireSide hbusy hstep)
  | committed _ _ hstep => exact .inl (execCkcommit_wireSide hstep)
  | alarmSet _ _ hstep => exact .inl (execSetalm_wireSide hstep)
  | armed _ hbusy hstep => exact .inl (execArmalm_wireSide hbusy hstep)

/-- Settles O21: what a step may do to the wire is said by `Ran.halfDuplex`; a change of one side of the
wire rules out every step but the one that may make it. -/
theorem commandsAreHalfDuplex : Obligations.CommandsAreHalfDuplex := by
  intro i s t hi h
  rcases (exec_ran hi h).halfDuplex with hsame | ⟨hx, cmd, pl, k, hbusy, ⟨rfl, hcount, hrx⟩ | ⟨rfl, htx⟩⟩
  · obtain ⟨htx, hrx, hcount⟩ := State.wireSide_eq_iff.1 hsame
    exact ⟨fun hsent => absurd htx hsent, fun hpolled => hpolled.elim (absurd hcount) (absurd hrx)⟩
  · exact ⟨fun _ => ⟨hx, hcount, hrx, cmd, pl, hbusy⟩,
      fun hpolled => hpolled.elim (absurd hcount) (absurd hrx)⟩
  · exact ⟨fun hsent => absurd htx hsent, fun _ => ⟨hx, htx, cmd, pl, hbusy⟩⟩

end Sys2Proof.Machine
end

section
/-! Decode and encode (R100 to R111): a command word is its four fields and decodes by them; a frame of a
known format decodes to the instruction whose bytes it is. -/

namespace Sys2Proof.Machine

/-! ### Command words -/

/-- The packing loses nothing: a word is its four fields (R100). -/
theorem cmdWord_fields (cmd : CmdWord) :
    cmdWord (opField cmd) (aField cmd) (bField cmd) (cField cmd) = cmd := by
  apply BitVec.eq_of_getLsbD_eq
  intro i hi
  rw [getLsbD_cmdWord _ _ _ _ _ hi]
  simp only [opField, aField, bField, cField, BitVec.getLsbD_extractLsb']
  split_ifs with hc hb ha
  · simp [hc]
  · simp [show i - 16 < 16 by omega, show 16 + (i - 16) = i by omega]
  · simp [show i - 32 < 8 by omega, show 32 + (i - 32) = i by omega]
  · simp [show i - 40 < 8 by omega, show 40 + (i - 40) = i by omega]

/-- The opcodes of R102's table. -/
def listedOps : List Byte :=
  [0x01#8, 0x02#8, 0x03#8, 0x04#8, 0x05#8, 0x06#8, 0x07#8, 0x10#8, 0x11#8, 0x12#8, 0x13#8,
    0x14#8, 0x20#8, 0x21#8, 0x22#8, 0x30#8, 0x31#8, 0x32#8, 0x33#8, 0x34#8, 0x35#8, 0x36#8, 0x37#8,
    0x38#8, 0x39#8, 0x3A#8, 0x3B#8, 0x3C#8]

theorem decodeFields_of_unlisted {op : Byte} (h : op ∉ listedOps) (a : Byte) (b c : Half) (pl : List Byte) :
    decodeFields op a b c pl = .error (.illegalOp op) := by
  unfold decodeFields
  split
  case h_29 => rfl
  all_goals exact absurd (by decide) h

/-- A command comes back from its word: each row's opcode selects the row, and an operand narrower than
its field is cut out of the field it was put into (R102, R111). -/
theorem decode_encode_of_isCommand {i : Instr} (hi : isCommand i = true) (bc : Bool) :
    decode bc (encode i) = .ok i := by
  cases i with
  | wkday | setsec | setmin | sethour | setday | setmon | setyear =>
    simp only [encode, decode, decodeCommand_cmdWord, decodeFields, loByte_setWidth]
  | armalm => simp only [encode, decode, decodeCommand_cmdWord, decodeFields, mask_setWidth]
  | req03 | req16 | rsp03 | rsp16 => cases hi
  | _ => exact decodeCommand_cmdWord ..

/-! ### Frames -/

theorem decodeFrame_req03Bytes (bc : Bool) (s : Byte) (a n : Half) (l h : Byte) :
    decodeFrame bc .req03 (req03Bytes s a n l h) = .ok (.req03 s a n l h) := by
  simp [decodeFrame, req03Bytes, be16, join_be]

/-- A write request is read back when its byte-count byte is there exactly when the parameter says so. -/
theorem decodeFrame_req16Bytes {bc : Bool} {k : Option Byte} (hk : k.isSome = bc) (s : Byte) (a n : Half)
    (pl : List Byte) (l h : Byte) :
    decodeFrame bc .req16 (req16Bytes s a n k pl l h) = .ok (.req16 s a n k pl l h) := by
  subst hk
  cases k with
  | none => simp [decodeFrame, req16Bytes, be16, join_be, splitChecksum_append]
  | some k =>
    have hsplit : splitChecksum (k :: (pl ++ [l, h])) = some (k :: pl, l, h) :=
      splitChecksum_append (k :: pl) l h
    simp [decodeFrame, req16Bytes, be16, join_be, hsplit]

theorem decodeFrame_rsp03Bytes (bc : Bool) (s k : Byte) (pl : List Byte) (l h : Byte) :
    decodeFrame bc .rsp03 (rsp03Bytes s k pl l h) = .ok (.rsp03 s k pl l h) := by
  simp [decodeFrame, rsp03Bytes, splitChecksum_append]

theorem decodeFrame_rsp16Bytes (bc : Bool) (body : List Byte) (l h : Byte) :
    decodeFrame bc .rsp16 (rsp16Bytes body l h) = .ok (.rsp16 body l h) := by
  simp [decodeFrame, rsp16Bytes, splitChecksum_append]

/-- What makes a write request well formed (R106). -/
theorem wf_req16_iff {P : Params} {s : Byte} {a n : Half} {k : Option Byte} {pl : List Byte} {l h : Byte} :
    Instr.wf P (.req16 s a n k pl l h) = true ↔
      pl.length = 2 * n.toNat ∧
      k = (if P.wrByteCount then some (BitVec.ofNat 8 pl.length) else none) ∧
      (P.wrByteCount = true → pl.length ≤ 255) ∧
      checksumOk ([s, 0x10#8] ++ be16 a ++ be16 n ++ k.toList ++ pl) l h = true := by
  cases hbc : P.wrByteCount <;> simp [Instr.wf, hbc, and_assoc]

/-- Settles O46: a command by its opcode, a frame by its format; only the write request's reading depends
on the parameters, and a well-formed one has the byte count they ask for. -/
theorem decodeOfEncodeIsIdentity : Obligations.DecodeOfEncodeIsIdentity := by
  intro P i hwf
  cases i with
  | req03 => exact decodeFrame_req03Bytes P.wrByteCount ..
  | req16 s a n k pl l h =>
    obtain ⟨-, hk, -, -⟩ := wf_req16_iff.1 hwf
    refine decodeFrame_req16Bytes ?_ s a n pl l h
    rw [hk]
    cases P.wrByteCount <;> rfl
  | rsp03 => exact decodeFrame_rsp03Bytes P.wrByteCount ..
  | rsp16 => exact decodeFrame_rsp16Bytes P.wrByteCount ..
  | _ => exact decode_encode_of_isCommand rfl _

/-- Settles O47: a word decodes by its fields, and the fields of a listed `op` by the table's row. -/
theorem opcodeMapIsTheTable : Obligations.OpcodeMapIsTheTable := by
  intro op a b c pl cmd
  simp only [decodeCommand_cmdWord]
  exact ⟨(cmdWord_fields cmd).symm, ⟨rfl, rfl, rfl, rfl, rfl, rfl, rfl⟩, ⟨rfl, rfl, rfl, rfl, rfl⟩,
    ⟨rfl, rfl, rfl⟩, ⟨rfl, rfl, rfl, rfl, rfl, rfl, rfl, rfl, rfl, rfl, rfl, rfl, rfl⟩,
    fun h => decodeFields_of_unlisted h a b c pl⟩

/-! ### Table words -/

/-- A table word of 48 bits is read as the command word it numbers (log 25). -/
theorem decodeTableWord_cmdWord (op a : Byte) (b c : Half) :
    decodeTableWord 48 (cmdWord op a b c).toNat = (decodeFields op a b c []).toOption := by
  have hcoded : codedOfTableWord 48 (cmdWord op a b c).toNat = .command (cmdWord op a b c) [] := by
    simp [codedOfTableWord]
  unfold decodeTableWord
  rw [hcoded, decode, decodeCommand_cmdWord]
  cases decodeFields op a b c [] <;> rfl

/-- Settles O48: each word is written as its four fields. -/
theorem sampleWordsDecode : Obligations.SampleWordsDecode :=
  ⟨decodeTableWord_cmdWord 0x01#8 0xF7#8 0x1234#16 0x0001#16,
    decodeTableWord_cmdWord 0x13#8 0x03#8 0x0000#16 0x0003#16,
    decodeTableWord_cmdWord 0x20#8 0x01#8 0x0000#16 0x0002#16,
    decodeTableWord_cmdWord 0x32#8 0x08#8 0x000C#16 0x001F#16,
    decodeTableWord_cmdWord 0x3A#8 0x00#8 0x0000#16 0x0013#16,
    decodeTableWord_cmdWord 0x08#8 0x00#8 0x0000#16 0x0000#16⟩

/-! ### Unlisted opcodes at the port -/

theorem State.issue_of_error {s : State} {cmd : CmdWord} {pl : List Byte} {e : DecodeError}
    (hd : decodeCommand cmd pl = .error e) :
    s.issue cmd pl = .next ({ s with portCmd := cmd, portPl := pl }.raise .illegalOp) := by
  unfold State.issue
  simp only [hd]

/-- Settles O50: the open port refuses the word by its `op` alone. -/
theorem illegalOpEndsAtOnce : Obligations.IllegalOpEndsAtOnce := by
  intro s cmd pl op rest hd hidle hagenda
  rw [step_of_command_idle hagenda hidle, State.issue_of_error hd]
  rfl

end Sys2Proof.Machine
end

section
/-! The requests the builders and the client send, as encodings of wire frames (R104 to R106). -/

namespace Sys2Proof.Machine

theorem checksumOk_crc16 (body : List Byte) :
    checksumOk body (loByte (crc16 body)) (hiByte (crc16 body)) = true :=
  beq_self_eq_true _

/-- The byte count of a write request, where the parameter asks for one (R106, R136). -/
def requestByteCount (P : Params) (pl : List Byte) : Option Byte :=
  if P.wrByteCount then some (BitVec.ofNat 8 pl.length) else none

/-- The bytes of a write request before its checksum (R106). -/
def writeRequestBody (P : Params) (a : Byte) (b : Half) (pl : List Byte) : List Byte :=
  [a, 0x10#8] ++ be16 b ++ be16 (BitVec.ofNat 16 (pl.length / 2)) ++ (requestByteCount P pl).toList ++ pl

theorem writeRequest_eq_frame (P : Params) (a : Byte) (b : Half) (pl : List Byte) :
    writeRequest P.wrByteCount a b pl = frame (writeRequestBody P a b pl) := by
  unfold writeRequest writeRequestBody requestByteCount
  cases P.wrByteCount <;> rfl

/-- Settles O10: header and checksum of the built frame are those of the format. The register count of
an even payload below 131072 bytes fits its 16-bit field. -/
theorem builtFramesAreWireFrames : Obligations.BuiltFramesAreWireFrames := by
  refine ⟨fun P a b c => ⟨_, _, checksumOk_crc16 _, rfl⟩, fun P a b pl hfits hlen => ?_⟩
  rw [writeRequestFits_iff, not_or, not_or] at hfits
  obtain ⟨heven, -, hbyte⟩ := hfits
  have hcount : pl.length = 2 * (BitVec.ofNat 16 (pl.length / 2)).toNat := by
    rw [BitVec.toNat_ofNat]
    omega
  have hbytes : P.wrByteCount = true → pl.length ≤ 255 := fun hbc =>
    Nat.le_of_not_lt fun hlong => hbyte ⟨if_pos hbc, hlong⟩
  exact ⟨_, requestByteCount P pl, _, _, wf_req16_iff.2 ⟨hcount, rfl, hbytes, checksumOk_crc16 _⟩,
    congrArg (Coded.wire .req16) (writeRequest_eq_frame P a b pl).symm⟩

end Sys2Proof.Machine
end

section
/-! The checksum as a division (R130, R131): each round is invertible, so a register keeps every
difference it once has, and two equal bytes cancel it eight bits at a time. -/

namespace Sys2Proof.Machine

/-! ### Invertibility -/

/-- The constant's top bit is set and the shift leaves that place empty, so the round's top bit tells
which branch was taken. -/
theorem getLsbD_crcRound_top (c : Half) : (crcRound c).getLsbD 15 = c.getLsbD 0 := by
  unfold crcRound
  split <;> simp_all

theorem crcRound_injective : Function.Injective crcRound := by
  intro c d h
  have hlow : c.getLsbD 0 = d.getLsbD 0 := by
    rw [← getLsbD_crcRound_top c, h, getLsbD_crcRound_top d]
  have hshift : c >>> 1 = d >>> 1 := by
    unfold crcRound at h
    rw [hlow] at h
    split at h
    · exact (BitVec.xor_left_inj _).1 h
    · exact h
  apply BitVec.eq_of_getLsbD_eq
  intro i _
  cases i with
  | zero => exact hlow
  | succ k => simpa [Nat.add_comm] using congrArg (·.getLsbD k) hshift

theorem crcRounds8_injective : Function.Injective crcRounds8 := fun _ _ h => by
  iterate 8 apply crcRound_injective
  exact h

theorem crcByte_register_injective (b : Byte) : Function.Injective (crcByte · b) :=
  fun _ _ h => (BitVec.xor_left_inj _).1 (crcRounds8_injective h)

theorem crcByte_injective (c : Half) : Function.Injective (crcByte c) := by
  intro b b' h
  have hwide : b.setWidth 16 = b'.setWidth 16 := (BitVec.xor_right_inj _).1 (crcRounds8_injective h)
  apply BitVec.eq_of_toNat_eq
  rw [← toNat_setWidth_byte (w := 16) (by decide) b, hwide, toNat_setWidth_byte (by decide)]

theorem foldl_crcByte_injective (t : List Byte) : Function.Injective (t.foldl crcByte) := by
  induction t with
  | nil => exact Function.injective_id
  | cons b t ih => exact ih.comp (crcByte_register_injective b)

theorem crc16_middle_injective (pre post : List Byte) :
    Function.Injective fun b => crc16 (pre ++ b :: post) := by
  intro b b' h
  simp only [crc16_append, List.foldl_cons] at h
  exact crcByte_injective _ (foldl_crcByte_injective post h)

/-- A change of one byte changes the checksum: the registers differ after that byte and stay different. -/
theorem crc16_set_ne {f : List Byte} {i : Nat} {b : Byte} (hi : i < f.length) (hb : b ≠ f[i]) :
    crc16 (f.set i b) ≠ crc16 f := by
  intro h
  have hset (x : Byte) : f.set i x = f.take i ++ x :: f.drop (i + 1) := by
    rw [List.set_eq_take_append_cons_drop, if_pos hi]
  have hsame : crc16 (f.set i b) = crc16 (f.set i f[i]) := by rwa [List.set_getElem_self]
  rw [hset, hset] at hsame
  exact hb (crc16_middle_injective _ _ hsame)

/-! ### Cancellation -/

theorem crcRound_of_even {c : Half} (h : c.getLsbD 0 = false) : crcRound c = c >>> 1 := by
  rw [crcRound, h]
  rfl

theorem crcRound_shiftLeft (b : Byte) {n : Nat} (hn : n < 8) :
    crcRound (b.setWidth 16 <<< (n + 1)) = b.setWidth 16 <<< n := by
  rw [crcRound_of_even (by simp)]
  apply BitVec.eq_of_getLsbD_eq
  intro i hi
  have hbeyond : 15 ≤ i → b.getLsbD (i - n) = false := fun _ => BitVec.getLsbD_of_ge _ _ (by omega)
  simp only [BitVec.getLsbD_ushiftRight, BitVec.getLsbD_shiftLeft, BitVec.getLsbD_setWidth]
  grind

/-- With the low byte clear no round divides: the high byte moves down. -/
theorem crcRounds8_highByte (b : Byte) : crcRounds8 (b.setWidth 16 <<< 8) = b.setWidth 16 := by
  simp [crcRounds8, crcRound_shiftLeft]

/-- The checksum that the bytes `l`, `h` stand for, low byte first (R71, R139). -/
def checksumOf (l h : Byte) : Half := l.setWidth 16 ||| h.setWidth 16 <<< 8

theorem toNat_checksumOf (l h : Byte) : (checksumOf l h).toNat = l.toNat + 256 * h.toNat := by
  have hl : (l.setWidth 16).toNat = l.toNat := toNat_setWidth_byte (by decide) l
  rw [checksumOf, BitVec.or_comm, toNat_byte_shiftLeft_or h (by decide) (hl.trans_lt l.isLt), hl]
  omega

theorem crcByte_checksumOf (l h : Byte) : crcByte (checksumOf l h) l = h.setWidth 16 := by
  have hhigh : checksumOf l h ^^^ l.setWidth 16 = h.setWidth 16 <<< 8 := by
    apply BitVec.eq_of_getLsbD_eq
    intro i hi
    by_cases h8 : i < 8
    · simp [checksumOf, hi, h8]
    · simp [checksumOf, hi, h8, BitVec.getLsbD_of_ge l i (Nat.le_of_not_lt h8)]
  rw [crcByte, hhigh, crcRounds8_highByte]

theorem crcByte_self (b : Byte) : crcByte (b.setWidth 16) b = 0#16 := by
  unfold crcByte
  rw [BitVec.xor_self]
  decide

/-- Two trailing bytes take the register to zero exactly when they are its two bytes, low byte first. -/
theorem crc16_append_pair_eq_zero_iff (body : List Byte) (l h : Byte) :
    crc16 (body ++ [l, h]) = 0#16 ↔ crc16 body = checksumOf l h := by
  have hzero : crcByte (crcByte (checksumOf l h) l) h = 0#16 := by
    rw [crcByte_checksumOf, crcByte_self]
  rw [crc16_append, ← hzero]
  exact (foldl_crcByte_injective [l, h]).eq_iff

/-! ### Verifying -/

theorem verifyFrame_append_pair (body : List Byte) (l h : Byte) :
    verifyFrame (body ++ [l, h]) = (crc16 body == checksumOf l h) := by
  simp [verifyFrame, checksumOf, List.getD_eq_getElem?_getD]

theorem exists_append_pair {f : List Byte} (hf : 2 ≤ f.length) : ∃ body l h, f = body ++ [l, h] := by
  have hlast : (f.drop (f.length - 2)).length = 2 := by rw [List.length_drop]; omega
  obtain ⟨l, h, hlh⟩ := List.length_eq_two.1 hlast
  exact ⟨f.take (f.length - 2), l, h, by rw [← hlh, List.take_append_drop]⟩

/-- R139: a frame verifies exactly when the checksum of the whole is zero. -/
theorem verifyFrame_iff_crc16_eq_zero {f : List Byte} (hf : 2 ≤ f.length) :
    verifyFrame f = true ↔ crc16 f = 0#16 := by
  obtain ⟨body, l, h, rfl⟩ := exists_append_pair hf
  rw [verifyFrame_append_pair, beq_iff_eq, crc16_append_pair_eq_zero_iff]

theorem crc16_frame (s : List Byte) : crc16 (frame s) = 0#16 :=
  (verifyFrame_iff_crc16_eq_zero (by simp)).1 (verifyFrame_frame s)

/-- Any change of one byte of a built frame is detected, more than R131 (c) asks. -/
theorem verifyFrame_set_of_ne {s : List Byte} {i : Nat} {b : Byte} (hi : i < (frame s).length)
    (hb : b ≠ (frame s)[i]) : verifyFrame ((frame s).set i b) = false := by
  rw [Bool.eq_false_iff, ne_eq, verifyFrame_iff_crc16_eq_zero (by simp), ← crc16_frame s]
  exact crc16_set_ne hi hb

theorem xor_bit_ne (b : Byte) {j : Nat} (hj : j < 8) : b ^^^ (1#8 <<< j) ≠ b := by
  intro h
  have hbit := congrArg (·.getLsbD j) h
  simp [hj] at hbit

/-- Settles O1: (a) and (b) are R133's frame, (c) the loss of a zero remainder by any changed byte. -/
theorem crcHasTheStatedProperties : Obligations.CrcHasTheStatedProperties := by
  refine ⟨fun s => ⟨crc16_frame s, verifyFrame_frame s, fun i j hi hj => ?_⟩,
    fun f hf => verifyFrame_iff_crc16_eq_zero hf, by decide +kernel⟩
  apply verifyFrame_set_of_ne hi
  rw [List.getD_eq_getElem _ _ hi]
  exact xor_bit_ne _ hj

/-- Settles O2: the two trailing bytes as a number. -/
theorem verifyComparesTheTrailingChecksum : Obligations.VerifyComparesTheTrailingChecksum := by
  refine ⟨fun f hf => if_pos hf, fun body l h => ?_⟩
  rw [verifyFrame_append_pair, beq_iff_eq, ← BitVec.toNat_inj, toNat_checksumOf]

end Sys2Proof.Machine
end

section
/-! The commands of U1 (R132 to R143): the builders and LDFB store a sequence from index 0, VERIFY and
RDFB read what is stored. -/

namespace Sys2Proof.Machine

/-! ### Storing -/

/-- Bytes that fit become the buffer's content, whatever it was, and then the command ends. -/
theorem State.loadFb_done {s : State} {bs : List Byte} {kind : BufKind} {r : Word} {rb : List Byte}
    (h : bs.length ≤ s.params.fbSize) :
    ∃ t, (s.loadFb bs kind fun u => .next (u.done r rb false)) = .next t ∧
      t = { s.responded r rb false with fb := t.fb, fblen := bs.length, fbk := kind } ∧
      BytesStored s t 0 bs :=
  ⟨_, State.loadFb_of_le h, rfl, bytesStored_setList rfl rfl⟩

theorem State.buildFrame_stores {s : State} {f : List Byte} {n : Nat} (hn : f.length = n)
    (h : n ≤ s.params.fbSize) :
    ∃ t, s.buildFrame f = .next t ∧
      t = { s.responded (BitVec.ofNat 32 n) f false with fb := t.fb, fblen := n, fbk := .good } ∧
      BytesStored s t 0 f := by
  subst hn
  exact State.loadFb_done h

/-- Settles O3: the read request has eight bytes. -/
theorem bldrdBuildsReadRequest : Obligations.BldrdBuildsReadRequest :=
  fun a b c _ hsize => State.buildFrame_stores (length_readRequest a b c) hsize

/-- Settles O4: BLDWR refuses exactly what `writeRequestFits` refuses. -/
theorem bldwrBuildsOrRefuses : Obligations.BldwrBuildsOrRefuses := by
  intro a b pl s x n f bad
  have hfits : writeRequestFits s.params pl = true ↔ ¬ bad := writeRequestFits_iff
  refine ⟨fun hbad => if_neg fun h => hfits.1 h hbad, fun hgood => ?_⟩
  have hexec : exec (.bldwr a b pl) s = s.buildFrame f := if_pos (hfits.2 hgood)
  rw [hexec]
  exact State.buildFrame_stores (length_writeRequest _ a b pl)
    (Nat.le_of_not_lt fun hlong => hgood (.inr (.inl hlong)))

/-- Settles O5: a frame is two bytes longer than what it carries. -/
theorem sealAppendsChecksum : Obligations.SealAppendsChecksum := by
  refine fun pl s => ⟨fun hlong => if_pos hlong, fun hfits => ?_⟩
  have hexec : exec (.seal pl) s = s.buildFrame (frame pl) := if_neg (Nat.not_lt.2 hfits)
  rw [hexec]
  exact State.buildFrame_stores (length_frame pl) hfits

/-- Settles O7: LDFB is the load alone. -/
theorem ldfbLoadsUnchecked : Obligations.LdfbLoadsUnchecked :=
  fun _ _ hfits => State.loadFb_done hfits

/-! ### Reading -/

/-- Settles O6: the whole content is tested, and the tag and `R` tell the outcome. -/
theorem verifyTagsTheBuffer : Obligations.VerifyTagsTheBuffer := by
  refine fun s => ⟨fun hnone => if_pos hnone, fun hempty hunspec hlen => ?_⟩
  show execVerify s = _
  unfold execVerify
  rw [if_neg (not_or.2 ⟨hempty, hunspec⟩), State.readFb_of_le (by omega)]
  split <;> rfl

/-- Settles O8: the bytes returned are those of the buffer, index by index. -/
theorem rdfbReturnsTheBuffer : Obligations.RdfbReturnsTheBuffer := by
  refine fun s => ⟨fun hunspec => if_pos hunspec, fun hspec hlen => ?_⟩
  refine ⟨s.fbBytes 0 s.fblen, ?_, State.length_fbBytes .., fun j hj => ?_⟩
  · show execRdfb s = _
    unfold execRdfb
    rw [if_neg hspec, State.readFb_of_le (by omega)]
    rfl
  · rw [State.getElem?_fbBytes_of_lt hj, Nat.zero_add]

/-! ### The checksum as a command -/

/-- Settles O9: zero extension keeps the checksum's number. -/
theorem crc16ReturnsChecksum : Obligations.Crc16ReturnsChecksum := by
  intro pl s
  rw [BitVec.ofNat_toNat]
  rfl

end Sys2Proof.Machine
end

section
/-! The decoders outside the payload window (R160, R161, R168): what `payload` refuses, every decoder
refuses, since it looks at the buffer through `payload` alone. -/

namespace Sys2Proof.Machine

/-- A zero width is refused before the buffer is looked at (R168). -/
theorem exec_decstr_zero (c : Half) (s : State) :
    exec (.decstr 0#8 c) s = .next (s.failed .badArg) := rfl

/-- Any other width is that of the window (R168). -/
theorem exec_decstr_of_ne_zero {a : Byte} (ha : a ≠ 0#8) (c : Half) (s : State) :
    exec (.decstr a c) s = s.payload c.toNat a.toNat fun p =>
      .next (s.done (BitVec.ofNat 32 (strLen p)) p false) := if_neg ha

/-- Settles O13: the tag is tested first and the window second, whatever would be done with the bytes;
only DECSTR has a test before these. -/
theorem decodersRefuseOutsideTheWindow : Obligations.DecodersRefuseOutsideTheWindow := by
  refine fun a c s => ⟨fun htag => ?_, exec_decstr_zero c s, fun hgood => ?_⟩
  · have refused : ∀ w cont, s.payload c.toNat w cont = .next (s.failed .notValid) :=
      fun _ _ => State.payload_of_notGood htag
    exact ⟨refused 4 _, refused 4 _, refused 2 _, refused 6 _,
      fun ha => (exec_decstr_of_ne_zero ha c s).trans (refused _ _)⟩
  · have refused : ∀ w cont, s.fblen < 5 + c.toNat + w →
        s.payload c.toNat w cont = .next (s.failed .badArg) :=
      fun _ _ hout => State.payload_of_outside hgood hout
    exact ⟨refused 4 _, refused 4 _, refused 2 _, refused 6 _,
      fun ha hout => (exec_decstr_of_ne_zero ha c s).trans (refused _ _ hout)⟩

end Sys2Proof.Machine
end

section
/-! Building, sending and checking (R182, R184, R186): steps 1, 2 and 5 of a transaction, as equations of
`exec` for the three commands that run one. -/

namespace Sys2Proof.Machine

section Steps

variable {i : Instr} {s : State} {f : List Byte} {n : Nat} {cmd : CmdWord} {pl : List Byte}

/-! ### Steps 1 and 2 -/

theorem exec_build (hi : transaction s.params i = some (f, n)) (h : s.seq = .busy cmd pl 1)
    (hfit : f.length ≤ s.params.fbSize) : exec i s = .next { s with
      fb := Memory.setList s.fb 0 f
      fblen := f.length
      fbk := .good
      idx := 0
      seq := .busy cmd pl 2 } :=
  calc exec i s = s.xactBuild f := exec_eq_xact hi h
    _ = _ := State.loadFb_of_le hfit
    _ = _ := congrArg Host.Outcome.next (State.goto_eq_of rfl h)

theorem exec_send (hi : transaction s.params i = some (f, n)) (h : s.seq = .busy cmd pl 2)
    (hidx : s.idx < s.fblen) (hlen : s.fblen ≤ s.params.fbSize) : exec i s = .next { s with
      tx := s.tx ++ [s.fbByte s.idx]
      idx := s.idx + 1
      seq := .busy cmd pl (if s.idx + 1 < s.fblen then 2 else 3) } :=
  calc exec i s = s.xactSend := exec_eq_xact hi h
    _ = _ := if_pos hidx
    _ = _ := State.readFb_of_le (by omega)
    _ = _ := congrArg Host.Outcome.next (State.goto_eq_of rfl h)

/-! ### Step 5 -/

theorem exec_check_of_wrong (hi : transaction s.params i = some (f, n)) (h : s.seq = .busy cmd pl 5)
    (hexp : s.explen = n) (hsize : n ≤ s.params.fbSize) (hv : verifyFrame (s.fbBytes 0 n) = false) :
    exec i s = .next { s.failed .checksumMismatch with fblen := n, fbk := .bad } := by
  subst hexp
  calc exec i s = s.xactCheck (transactionEnd i) := exec_eq_xact hi h
    _ = _ := State.readFb_of_le (by omega)
    _ = _ := if_neg (Bool.eq_false_iff.1 hv)

theorem exec_check_of_right (hi : transaction s.params i = some (f, n)) (h : s.seq = .busy cmd pl 5)
    (hexp : s.explen = n) (hsize : n ≤ s.params.fbSize) (hv : verifyFrame (s.fbBytes 0 n) = true) :
    exec i s = transactionEnd i { s with fblen := n, fbk := .good } := by
  subst hexp
  calc exec i s = s.xactCheck (transactionEnd i) := exec_eq_xact hi h
    _ = _ := State.readFb_of_le (by omega)
    _ = _ := if_pos hv

theorem transactionEnd_rdhold {a : Byte} {b c : Half} (h : 5 + 2 * c.toNat ≤ s.params.fbSize) :
    transactionEnd (.rdhold a b c) s =
      .next (s.responded (BitVec.ofNat 32 (2 * c.toNat)) (s.fbBytes 3 (2 * c.toNat)) false) :=
  calc transactionEnd (.rdhold a b c) s = s.readFb 3 (2 * c.toNat) fun p =>
        .next (s.done (BitVec.ofNat 32 (2 * c.toNat)) p false) := rfl
    _ = _ := State.readFb_of_le (by omega)

theorem transactionEnd_of_write (h : ∀ a b c, i ≠ .rdhold a b c) :
    transactionEnd i s = .next (s.responded 0#32 [] false) := by
  unfold transactionEnd
  split
  · exact absurd rfl (h _ _ _)
  · rfl

end Steps

/-! ### The obligations -/

/-- Settles O15: the two steps by their equations. -/
theorem transactionBuildsAndSends : Obligations.TransactionBuildsAndSends :=
  fun _ _ _ _ _ _ hi => ⟨fun h hfit => ⟨_, exec_build hi h hfit, rfl, bytesStored_setList rfl rfl⟩,
    fun h hidx hlen => exec_send hi h hidx hlen⟩

/-- Settles O17: a wrong checksum ends the command; a right one leaves the end to the command. -/
theorem receiveChecksTheChecksum : Obligations.ReceiveChecksTheChecksum := by
  intro i f n cmd pl s hi h hexp _ hsize
  refine ⟨exec_check_of_wrong hi h hexp hsize, fun hv => ⟨?_, fun hwrite => ?_⟩⟩
  · rintro a b c rfl
    have hn : 5 + 2 * c.toNat = n := congrArg Prod.snd (Option.some.inj hi)
    rw [exec_check_of_right hi h hexp hsize hv, transactionEnd_rdhold (by exact hn ▸ hsize)]
    rfl
  · rw [exec_check_of_right hi h hexp hsize hv, transactionEnd_of_write hwrite]
    rfl

end Sys2Proof.Machine
end

section
/-! The reception is bounded (R185, R196): of the polls that may still follow, every poll takes one away,
for a byte that renews the budget is one byte less to come. -/

namespace Sys2Proof.Machine

/-! ### Runs of one command -/

theorem execRun_succ {i : Instr} {s u : State} (h : exec i s = .next u) (n : Nat) :
    execRun i (n + 1) s = execRun i n u := by
  simp only [execRun, h]

theorem execRun_one (i : Instr) (s : State) : execRun i 1 s = exec i s := by
  unfold execRun
  cases exec i s <;> rfl

theorem execRun_add {i : Instr} {m : Nat} {s u : State} (h : execRun i m s = .next u) (n : Nat) :
    execRun i (m + n) s = execRun i n u := by
  induction m generalizing s with
  | zero =>
    cases h
    rw [Nat.zero_add]
  | succ m ih =>
    cases hs : exec i s with
    | next v =>
      rw [execRun_succ hs] at h
      rw [Nat.add_right_comm, execRun_succ hs, ih h]
    | fault | refused => simp [execRun, hs] at h

/-! ### One poll -/

section Poll

variable {i : Instr} {s : State} {f : List Byte} {n : Nat} {cmd : CmdWord} {pl : List Byte} {b : Byte}

theorem exec_poll_last (hi : transaction s.params i = some (f, n)) (h : s.seq = .busy cmd pl 4)
    (hb : s.rxNext = some b) (hidx : s.idx < s.params.fbSize) (hlast : s.idx + 1 = s.explen) :
    exec i s = .next { s.renewFree.rxAdvance with
      fb := Memory.set s.fb s.idx b
      idx := s.idx + 1
      seq := .busy cmd pl 5 } :=
  calc exec i s = s.xactPoll := exec_eq_xact hi h
    _ = s.renewFree.rxAdvance.xactByte b := State.xactPoll_of_some hb
    _ = _ := State.xactByte_of_lt hidx
    _ = _ := if_pos hlast
    _ = _ := congrArg Host.Outcome.next (State.goto_eq_of rfl h)

theorem exec_poll_more (hi : transaction s.params i = some (f, n)) (h : s.seq = .busy cmd pl 4)
    (hb : s.rxNext = some b) (hidx : s.idx < s.params.fbSize) (hmore : s.idx + 1 ≠ s.explen) :
    exec i s = .next { s.renewFree.rxAdvance with
      fb := Memory.set s.fb s.idx b
      idx := s.idx + 1
      pollcnt := s.params.pollBudget } :=
  calc exec i s = s.xactPoll := exec_eq_xact hi h
    _ = s.renewFree.rxAdvance.xactByte b := State.xactPoll_of_some hb
    _ = _ := State.xactByte_of_lt hidx
    _ = _ := if_neg hmore

theorem exec_poll_silent (hi : transaction s.params i = some (f, n)) (h : s.seq = .busy cmd pl 4)
    (hb : s.rxNext = none) (hleft : 2 ≤ s.pollcnt) :
    exec i s = .next { s.renewFree.rxAdvance with pollcnt := s.pollcnt - 1 } :=
  calc exec i s = s.xactPoll := exec_eq_xact hi h
    _ = s.renewFree.rxAdvance.xactNone := State.xactPoll_of_none hb
    _ = _ := State.xactNone_of_two hleft

theorem exec_poll_timeout (hi : transaction s.params i = some (f, n)) (h : s.seq = .busy cmd pl 4)
    (hb : s.rxNext = none) (hlast : s.pollcnt = 1) :
    exec i s = .next ({ s.renewFree.rxAdvance with pollcnt := 0 }.havocFb.raise .timeout) :=
  calc exec i s = s.xactPoll := exec_eq_xact hi h
    _ = s.renewFree.rxAdvance.xactNone := State.xactPoll_of_none hb
    _ = _ := State.xactNone_of_one hlast

end Poll

/-! ### Whatever is answered -/

/-- More bytes are awaited, and the budget of polls is not used up. -/
structure State.Awaits (s : State) (cmd : CmdWord) (pl : List Byte) : Prop where
  seq : s.seq = .busy cmd pl 4
  idx : s.idx < s.explen
  size : s.explen ≤ s.params.fbSize
  polls : 1 ≤ s.pollcnt
  budget : s.pollcnt ≤ s.params.pollBudget

/-- The polls that may follow: the present byte's, and a full budget for each byte after it (R196). -/
def State.pollsLeft (s : State) : Nat :=
  s.pollcnt + (s.explen - (s.idx + 1)) * s.params.pollBudget

theorem State.Awaits.pollsLeft_pos {s : State} {cmd : CmdWord} {pl : List Byte} (h : s.Awaits cmd pl) :
    1 ≤ s.pollsLeft := Nat.le_add_right_of_le h.polls

theorem State.Awaits.pollsLeft_le {s : State} {cmd : CmdWord} {pl : List Byte} (h : s.Awaits cmd pl) :
    s.pollsLeft ≤ (s.explen - s.idx) * s.params.pollBudget := by
  have hidx := h.idx
  have hbytes : s.explen - s.idx = (s.explen - (s.idx + 1)) + 1 := by omega
  unfold State.pollsLeft
  rw [hbytes, Nat.succ_mul, Nat.add_comm]
  exact Nat.add_le_add_left h.budget _

/-- A byte that is not the last is paid for by the budget it renews. -/
theorem State.pollsLeft_of_more {s t : State} {cmd : CmdWord} {pl : List Byte} (h : s.Awaits cmd pl)
    (hmore : s.idx + 1 ≠ s.explen) (hidx : t.idx = s.idx + 1) (hexp : t.explen = s.explen)
    (hP : t.params = s.params) (hpoll : t.pollcnt = s.params.pollBudget) : t.pollsLeft < s.pollsLeft := by
  have hlt := h.idx
  have hpolls := h.polls
  have hbytes : s.explen - (s.idx + 1) = (s.explen - (s.idx + 1 + 1)) + 1 := by omega
  unfold State.pollsLeft
  rw [hidx, hexp, hP, hpoll, hbytes, Nat.succ_mul]
  omega

/-- The reception is over: at the check, or with Timeout. -/
def State.Received (s : State) (cmd : CmdWord) (pl : List Byte) : Prop :=
  s.seq = .busy cmd pl 5 ∨ (s.seq = .idle ∧ s.st = .timeout)

/-- A poll ends the reception or leaves fewer polls to follow. -/
theorem exec_poll_progress {i : Instr} {s : State} {f : List Byte} {n : Nat} {cmd : CmdWord}
    {pl : List Byte} (hi : transaction s.params i = some (f, n)) (h : s.Awaits cmd pl) :
    ∃ t, exec i s = .next t ∧ t.rxCount = s.rxCount + 1 ∧ t.tx = s.tx ∧
      (t.Received cmd pl ∨ t.params = s.params ∧ t.Awaits cmd pl ∧ t.pollsLeft < s.pollsLeft) := by
  have ⟨hseq, hidx, hsize, hpolls, hbudget⟩ := h
  cases hb : s.rxNext with
  | some b =>
    by_cases hlast : s.idx + 1 = s.explen
    · have hx := exec_poll_last hi hseq hb (by omega) hlast
      exact ⟨_, hx, rfl, rfl, .inl (.inl rfl)⟩
    · have hx := exec_poll_more hi hseq hb (by omega) hlast
      exact ⟨_, hx, rfl, rfl, .inr ⟨rfl,
        ⟨hseq, Nat.lt_of_le_of_ne hidx hlast, hsize, hpolls.trans hbudget, Nat.le_refl _⟩,
        State.pollsLeft_of_more h hlast rfl rfl rfl rfl⟩⟩
  | none =>
    by_cases hlast : s.pollcnt = 1
    · have hx := exec_poll_timeout hi hseq hb hlast
      exact ⟨_, hx, rfl, rfl, .inl (.inr ⟨rfl, rfl⟩)⟩
    · have hx := exec_poll_silent hi hseq hb (by omega)
      exact ⟨_, hx, rfl, rfl, .inr ⟨rfl,
        ⟨hseq, hidx, hsize, Nat.le_sub_one_of_lt (Nat.lt_of_le_of_ne hpolls (Ne.symm hlast)),
          (Nat.sub_le ..).trans hbudget⟩,
        Nat.add_lt_add_right (Nat.sub_lt hpolls Nat.one_pos) _⟩⟩

theorem execRun_reception {i : Instr} {s : State} {f : List Byte} {n : Nat} {cmd : CmdWord}
    {pl : List Byte} (hi : transaction s.params i = some (f, n)) (h : s.Awaits cmd pl) :
    ∃ m t, 1 ≤ m ∧ m ≤ s.pollsLeft ∧ execRun i m s = .next t ∧ t.rxCount = s.rxCount + m ∧
      t.tx = s.tx ∧ t.Received cmd pl := by
  induction hk : s.pollsLeft using Nat.strong_induction_on generalizing s with
  | _ k ih =>
    subst hk
    obtain ⟨u, hx, hcount, htx, hover | ⟨hP, hu, hless⟩⟩ := exec_poll_progress hi h
    · exact ⟨1, u, Nat.le_refl _, h.pollsLeft_pos, (execRun_one ..).trans hx, hcount, htx, hover⟩
    · obtain ⟨m, t, -, hm, hrun, hcount', htx', hover⟩ := ih _ hless (hP ▸ hi) hu rfl
      exact ⟨m + 1, t, Nat.le_add_left .., Nat.succ_le_of_lt (hm.trans_lt hless),
        (execRun_succ hx m).trans hrun, by omega, htx'.trans htx, hover⟩

/-! ### When nothing is answered -/

theorem State.rxNext_of_cons {s : State} {x : Option Byte} {rest : List (Option Byte)}
    (h : s.rx = x :: rest) : s.rxNext = x := by
  unfold State.rxNext
  rw [h]

/-- The end of a command after `polls` polls that answer nothing, the last of them in epoch `e`. -/
def State.timedOut (s : State) (polls e : Nat) (rest : List (Option Byte)) : State :=
  { s with rx := rest, rxCount := s.rxCount + polls, pollcnt := 0, freeCount := e }.havocFb.raise .timeout

theorem execRun_silence {i : Instr} {s : State} {f : List Byte} {n p : Nat} {cmd : CmdWord}
    {pl : List Byte} {rest : List (Option Byte)} (hi : transaction s.params i = some (f, n))
    (h : s.seq = .busy cmd pl 4) (hp : s.pollcnt = p + 1)
    (hrx : s.rx = List.replicate (p + 1) none ++ rest) :
    ∃ e, execRun i (p + 1) s = .next (s.timedOut (p + 1) e rest) := by
  induction p generalizing s with
  | zero =>
    have hx := exec_poll_timeout hi h (State.rxNext_of_cons hrx) hp
    have htail : s.rx.tail = rest := congrArg List.tail hrx
    subst htail
    exact ⟨_, (execRun_one ..).trans hx⟩
  | succ p ih =>
    have hx := exec_poll_silent hi h (State.rxNext_of_cons hrx) (by omega)
    obtain ⟨e, hrun⟩ := ih (s := { s.renewFree.rxAdvance with pollcnt := s.pollcnt - 1 }) hi h
      (Nat.sub_eq_of_eq_add hp) (congrArg List.tail hrx)
    refine ⟨e, (execRun_succ hx _).trans (hrun.trans (congrArg Host.Outcome.next ?_))⟩
    have hcount : s.rxCount + 1 + (p + 1) = s.rxCount + (p + 1 + 1) := by omega
    unfold State.timedOut
    rw [← hcount]
    rfl

/-- Settles O20: whatever is answered, `pollsLeft` bounds the polls; silence uses up the present budget. -/
theorem receptionIsBounded : Obligations.ReceptionIsBounded := by
  intro i f n cmd pl s hi hseq hpolls
  refine ⟨fun hidx hsize hbudget => ?_, fun rest hrx => ?_⟩
  · have h : s.Awaits cmd pl := ⟨hseq, hidx, hsize, hpolls, hbudget⟩
    obtain ⟨m, t, h1, hm, hrun⟩ := execRun_reception hi h
    exact ⟨m, t, h1, hm.trans h.pollsLeft_le, hrun⟩
  · obtain ⟨p, hp⟩ := Nat.exists_eq_add_of_le' hpolls
    rw [hp] at hrx ⊢
    obtain ⟨e, hrun⟩ := execRun_silence hi hseq hp hrx
    exact ⟨_, hrun, rfl, rfl, rfl, rfl, rfl, rfl, rfl, rfl, rfl⟩

end Sys2Proof.Machine
end

section
/-! A transaction answered in full (R180 to R186), from the acceptance to the check: the request goes out
byte by byte, the response comes in byte by byte, each poll answered, and its checksum is right. -/

namespace Sys2Proof.Machine

/-! ### Reading the buffer -/

theorem State.fbByte_stored {s : State} {m : Memory} {bs : List Byte} {j : Nat}
    (h : s.fb = Memory.setList m 0 bs) (hj : j < bs.length) : s.fbByte j = bs.getD j 0#8 := by
  rw [← Nat.zero_add j, ← State.getD_fbBytes s 0 bs.length j hj 0#8, State.fbBytes_stored h, Nat.zero_add]

theorem State.fbBytes_succ (s : State) (off n : Nat) :
    s.fbBytes off (n + 1) = s.fbByte off :: s.fbBytes (off + 1) n := by
  simp only [State.fbBytes, List.range_succ_eq_map, List.map_cons, List.map_map, Nat.add_zero]
  refine congrArg _ (List.map_congr_left fun j _ => congrArg s.fbByte ?_)
  omega

/-- A part of what the buffer holds from index 0. -/
theorem State.fbBytes_part {s : State} {bs : List Byte} {off n : Nat} (h : s.fbBytes 0 bs.length = bs)
    (hn : off + n ≤ bs.length) : s.fbBytes off n = (bs.drop off).take n := by
  apply List.ext_getElem?
  intro j
  rw [State.getElem?_fbBytes, List.getElem?_take, List.getElem?_drop]
  split
  · rw [← h, State.getElem?_fbBytes_of_lt (by omega), Nat.zero_add]
  · rfl

/-! ### The phases -/

section Phases

variable {i : Instr} {s : State} {f : List Byte} {n : Nat} {cmd : CmdWord} {pl : List Byte}

theorem exec_setup (hi : transaction s.params i = some (f, n)) (h : s.seq = .busy cmd pl 3) :
    exec i s = .next { s.havocFb with
      fbk := .unspec
      idx := 0
      explen := n
      pollcnt := s.params.pollBudget
      seq := .busy cmd pl 4 } :=
  calc exec i s = s.xactSetup n := exec_eq_xact hi h
    _ = _ := State.xactSetup_of_busy h

/-- Step 2 until the request is sent (R184). -/
theorem execRun_send {k : Nat} (hi : transaction s.params i = some (f, n)) (h : s.seq = .busy cmd pl 2)
    (hk : s.idx + (k + 1) = s.fblen) (hlen : s.fblen ≤ s.params.fbSize) :
    execRun i (k + 1) s = .next { s with
      tx := s.tx ++ s.fbBytes s.idx (k + 1)
      idx := s.fblen
      seq := .busy cmd pl 3 } := by
  induction k generalizing s with
  | zero =>
    have hx := exec_send hi h (by omega) hlen
    rw [if_neg (by omega), show s.idx + 1 = s.fblen from hk] at hx
    exact (execRun_one ..).trans hx
  | succ k ih =>
    have hx := exec_send hi h (by omega) hlen
    rw [if_pos (by omega)] at hx
    have hrun := ih (s := { s with
        tx := s.tx ++ [s.fbByte s.idx], idx := s.idx + 1, seq := .busy cmd pl 2 })
      hi rfl (by show s.idx + 1 + (k + 1) = s.fblen; omega) hlen
    have htx : s.tx ++ s.fbBytes s.idx (k + 1 + 1) =
        s.tx ++ [s.fbByte s.idx] ++ s.fbBytes (s.idx + 1) (k + 1) := by
      rw [State.fbBytes_succ, List.append_cons]
    rw [htx]
    exact (execRun_succ hx _).trans hrun

/-- Step 4 when every poll is answered, until the awaited bytes are stored (R185). -/
theorem execRun_receive {bs : List Byte} {rest : List (Option Byte)} {b : Byte}
    (hi : transaction s.params i = some (f, n)) (h : s.seq = .busy cmd pl 4)
    (hbs : s.idx + (b :: bs).length = s.explen) (hsize : s.explen ≤ s.params.fbSize)
    (hpoll : s.pollcnt = s.params.pollBudget) (hrx : s.rx = (b :: bs).map some ++ rest) :
    ∃ l e, execRun i (b :: bs).length s = .next { s with
      fb := Memory.setList s.fb s.idx (b :: bs)
      fblen := l
      freeCount := e
      idx := s.explen
      rx := rest
      rxCount := s.rxCount + (b :: bs).length
      seq := .busy cmd pl 5 } := by
  induction bs generalizing s b with
  | nil =>
    have hlast : s.idx + 1 = s.explen := hbs
    have hrest : s.rx.tail = rest := congrArg List.tail hrx
    have hx := exec_poll_last hi h (State.rxNext_of_cons hrx) (by omega) hlast
    rw [hlast] at hx
    subst hrest
    exact ⟨_, _, (execRun_one ..).trans hx⟩
  | cons c bs ih =>
    rw [List.length_cons, List.length_cons] at hbs
    have hx := exec_poll_more hi h (State.rxNext_of_cons hrx) (by omega) (by omega)
    obtain ⟨l, e, hrun⟩ := ih (b := c) (s := { s.renewFree.rxAdvance with
        fb := Memory.set s.fb s.idx b, idx := s.idx + 1, pollcnt := s.params.pollBudget })
      hi h (by show s.idx + 1 + (bs.length + 1) = s.explen; omega) hsize rfl (congrArg List.tail hrx)
    refine ⟨l, e, (execRun_succ hx _).trans (hrun.trans (congrArg Host.Outcome.next ?_))⟩
    have hcount : s.rxCount + 1 + (c :: bs).length = s.rxCount + (b :: c :: bs).length := by
      simp only [List.length_cons]
      omega
    rw [← hcount, hpoll]
    rfl

/-- From Idle to the first poll: the request is built and sent, and the reception set up. -/
theorem execRun_request (hi : transaction s.params i = some (f, n)) (haccept : exec i s = .next s.accept)
    (hf : 1 ≤ f.length) (hfit : f.length ≤ s.params.fbSize) :
    execRun i (1 + (1 + (f.length + 1))) s = .next { s.havocFb with
      fbk := .unspec
      idx := 0
      explen := n
      pollcnt := s.params.pollBudget
      tx := s.tx ++ f
      seq := .busy s.portCmd s.portPl 4 } := by
  obtain ⟨k, hk⟩ := Nat.exists_eq_add_of_le' hf
  have hbuild := exec_build (s := s.accept) hi rfl hfit
  have hsend := execRun_send (s := { s.accept with
    fb := Memory.setList s.fb 0 f, fblen := f.length, fbk := .good, idx := 0,
    seq := .busy s.portCmd s.portPl 2 }) hi rfl ((Nat.zero_add _).trans hk.symm) hfit
  rw [← hk, State.fbBytes_stored (m := s.fb) rfl] at hsend
  calc execRun i (1 + (1 + (f.length + 1))) s
    _ = _ := execRun_add ((execRun_one ..).trans haccept) _
    _ = _ := execRun_add ((execRun_one ..).trans hbuild) _
    _ = _ := execRun_add hsend 1
    _ = _ := (execRun_one ..).trans (exec_setup hi rfl)

end Phases

/-! ### The whole transaction -/

/-- What an exchange of the request `f` for the response `resp` leaves before the command ends, in some
epoch `e`. -/
def State.exchanged (s : State) (f resp : List Byte) (rest : List (Option Byte)) (e : Nat) : State :=
  { s with
    fb := Memory.setList [] 0 resp
    freeCount := e
    fblen := resp.length
    fbk := .good
    idx := resp.length
    explen := resp.length
    pollcnt := s.params.pollBudget
    tx := s.tx ++ f
    rx := rest
    rxCount := s.rxCount + resp.length
    seq := .busy s.portCmd s.portPl 5 }

theorem execRun_answered {i : Instr} {s : State} {f resp : List Byte} {rest : List (Option Byte)}
    (hi : transaction s.params i = some (f, resp.length)) (haccept : exec i s = .next s.accept)
    (hf : 1 ≤ f.length) (hfit : f.length ≤ s.params.fbSize) (hsize : resp.length ≤ s.params.fbSize)
    (hv : verifyFrame resp = true) (hrx : s.rx = resp.map some ++ rest) :
    ∃ e, execRun i (4 + f.length + resp.length) s = transactionEnd i (s.exchanged f resp rest e) := by
  obtain ⟨b, bs, rfl⟩ : ∃ b bs, resp = b :: bs := List.exists_cons_of_ne_nil fun h => by
    subst h
    cases hv
  have hrequest := execRun_request hi haccept hf hfit
  obtain ⟨l, e, hreceive⟩ := execRun_receive (s := { s.havocFb with
      fbk := .unspec, idx := 0, explen := (b :: bs).length, pollcnt := s.params.pollBudget,
      tx := s.tx ++ f, seq := .busy s.portCmd s.portPl 4 }) hi rfl (Nat.zero_add _) hsize rfl hrx
  have hcount : 4 + f.length + (b :: bs).length = 1 + (1 + (f.length + 1)) + ((b :: bs).length + 1) := by
    omega
  have hcheck := exec_check_of_right
    (s := { s.exchanged f (b :: bs) rest e with fblen := l, fbk := .unspec }) hi rfl rfl hsize
    (by rwa [State.fbBytes_stored (m := []) rfl])
  refine ⟨e, ?_⟩
  calc execRun i (4 + f.length + (b :: bs).length) s
    _ = _ := congrArg (execRun i · s) hcount
    _ = _ := execRun_add hrequest _
    _ = _ := execRun_add hreceive 1
    _ = _ := (execRun_one ..).trans hcheck

/-! ### Reads and writes -/

/-- Settles O18: the transaction of a read; its end returns the part of the response that is payload. -/
theorem rdholdCompletesWhenAnswered : Obligations.RdholdCompletesWhenAnswered := by
  intro a b c s resp rest hidle h8 hsize hresp hv hrx
  have haccept : exec (.rdhold a b c) s = .next s.accept :=
    (execRdhold_of_idle hidle).trans (congrArg Host.Outcome.next (if_neg (Nat.not_lt.2 hsize)))
  have hi : transaction s.params (.rdhold a b c) = some (readRequest a b c, resp.length) := by
    rw [hresp]
    rfl
  obtain ⟨e, hrun⟩ := execRun_answered hi haccept (by simp) (by simpa using h8) (hresp ▸ hsize) hv hrx
  have hcount : 17 + 2 * c.toNat = 4 + (readRequest a b c).length + resp.length := by
    rw [length_readRequest, hresp]
    omega
  rw [transactionEnd_rdhold (by exact hsize), State.fbBytes_part (State.fbBytes_stored (m := []) rfl)
    (by omega)] at hrun
  rw [hcount, ← hresp]
  exact ⟨_, hrun, rfl, fun j hj => State.fbByte_stored (m := []) rfl hj⟩

theorem one_le_length_writeRequest (bc : Bool) (a : Byte) (b : Half) (pl : List Byte) :
    1 ≤ (writeRequest bc a b pl).length := by
  rw [length_writeRequest]
  omega

theorem length_writeRequest_le {P : Params} {pl : List Byte} (h : writeRequestFits P pl = true) (a : Byte)
    (b : Half) : (writeRequest P.wrByteCount a b pl).length ≤ P.fbSize := by
  rw [writeRequestFits_iff, not_or, not_or] at h
  obtain ⟨-, hfit, -⟩ := h
  rw [length_writeRequest]
  exact Nat.le_of_not_lt hfit

/-- Settles O19: the transaction of a write, of which UNLOCK is one; its end returns nothing. -/
theorem wrmultAndUnlockCompleteWhenAnswered : Obligations.WrmultAndUnlockCompleteWhenAnswered := by
  intro i a b pl s resp rest hwrite hidle hfits _ hsize hresp hv hrx f
  have hexec : exec i s = s.writeMultiple a b pl := by
    rcases hwrite with rfl | ⟨rfl, rfl, rfl, rfl⟩ <;> rfl
  have haccept : exec i s = .next s.accept := by
    rw [hexec, State.writeMultiple_of_idle hidle, if_pos hfits]
  have hi : transaction s.params i = some (f, resp.length) := by
    rcases hwrite with rfl | ⟨rfl, rfl, rfl, rfl⟩ <;> rw [hresp] <;> rfl
  have hnot : ∀ a b c, i ≠ .rdhold a b c := by
    rcases hwrite with rfl | ⟨rfl, -⟩ <;> nofun
  obtain ⟨e, hrun⟩ := execRun_answered hi haccept (one_le_length_writeRequest ..)
    (length_writeRequest_le hfits a b) (hresp ▸ hsize) hv hrx
  rw [transactionEnd_of_write hnot] at hrun
  rw [← hresp]
  exact ⟨_, hrun, rfl, fun j hj => State.fbByte_stored (m := []) rfl hj⟩

end Sys2Proof.Machine
end

section
/-! Reading the clock (R210, R211): the fourteen micro-steps of CKREAD by their equations, the read run
alone, and the read with ticks and acknowledges between its steps. -/

namespace Sys2Proof.Machine

/-! ### The micro-steps -/

/-- A state with its sequencer written out, so that a micro-step of it computes. -/
theorem State.eq_with_seq {s : State} {q : Seq} (h : s.seq = q) : s = { s with seq := q } := by
  subst h
  rfl

/-- The micro-step that reads a field into `PRI`; the same field goes into `CHK` seven steps later. -/
def readStep : Field → Nat
  | .sec => 1
  | .min => 2
  | .hour => 3
  | .weekday => 4
  | .day => 5
  | .month => 6
  | .year => 7

theorem exists_readStep {k : Nat} (h1 : 1 ≤ k) (h7 : k ≤ 7) : ∃ f, readStep f = k := by
  interval_cases k
  exacts [⟨.sec, rfl⟩, ⟨.min, rfl⟩, ⟨.hour, rfl⟩, ⟨.weekday, rfl⟩, ⟨.day, rfl⟩, ⟨.month, rfl⟩, ⟨.year, rfl⟩]

theorem readStep_injective : Function.Injective readStep := by
  intro f g h
  cases f <;> cases g <;> cases h <;> rfl

section Equations

variable {s : State} {cmd : CmdWord} {pl : List Byte}

theorem exec_ckread_idle (h : s.seq = .idle) : exec .ckread s = .next s.accept := by
  rw [State.eq_with_seq h]
  rfl

theorem exec_ckread_first (f : Field) (h : s.seq = .busy cmd pl (readStep f)) :
    exec .ckread s = .next { s with
      pri := snapSet s.pri f (wordsField s.rtcw f)
      seq := .busy cmd pl (readStep f + 1) } := by
  rw [State.eq_with_seq h]
  cases f <;> rfl

theorem exec_ckread_second {f : Field} (hf : f ≠ .year) (h : s.seq = .busy cmd pl (7 + readStep f)) :
    exec .ckread s = .next { s with
      chk := snapSet s.chk f (wordsField s.rtcw f)
      seq := .busy cmd pl (7 + readStep f + 1) } := by
  rw [State.eq_with_seq h]
  cases f with
  | year => exact absurd rfl hf
  | _ => rfl

theorem exec_ckread_last (h : s.seq = .busy cmd pl 14) :
    exec .ckread s = .next (s.readChk .year).endRead := by
  rw [State.eq_with_seq h]
  rfl

end Equations

/-- Settles O23: one field into `PRI`, one field into `CHK`, and the comparison. -/
theorem ckreadStepByStep : Obligations.CkreadStepByStep := by
  refine fun s => ⟨exec_ckread_idle, fun cmd ops => ?_⟩
  exact ⟨exec_ckread_first .sec, exec_ckread_first .min, exec_ckread_first .hour,
    exec_ckread_first .weekday, exec_ckread_first .day, exec_ckread_first .month, exec_ckread_first .year,
    exec_ckread_second (f := .sec) nofun, exec_ckread_second (f := .min) nofun,
    exec_ckread_second (f := .hour) nofun, exec_ckread_second (f := .weekday) nofun,
    exec_ckread_second (f := .day) nofun, exec_ckread_second (f := .month) nofun, exec_ckread_last⟩

/-! ### The read run alone -/

/-- A read alone from its first step: both snapshots are the time, so they agree. -/
theorem execRun_ckread_busy {s : State} {cmd : CmdWord} {pl : List Byte} (h : s.seq = .busy cmd pl 1) :
    execRun .ckread 14 s = .next { s.responded 7#32 (snapBytes (wordsSnap s.rtcw)) false with
      pri := wordsSnap s.rtcw, chk := wordsSnap s.rtcw } :=
  calc execRun .ckread 14 s
    _ = _ := execRun_succ (exec_ckread_first .sec h) 13
    _ = _ := execRun_succ (exec_ckread_first .min rfl) 12
    _ = _ := execRun_succ (exec_ckread_first .hour rfl) 11
    _ = _ := execRun_succ (exec_ckread_first .weekday rfl) 10
    _ = _ := execRun_succ (exec_ckread_first .day rfl) 9
    _ = _ := execRun_succ (exec_ckread_first .month rfl) 8
    _ = _ := execRun_succ (exec_ckread_first .year rfl) 7
    _ = _ := execRun_succ (exec_ckread_second (f := .sec) nofun rfl) 6
    _ = _ := execRun_succ (exec_ckread_second (f := .min) nofun rfl) 5
    _ = _ := execRun_succ (exec_ckread_second (f := .hour) nofun rfl) 4
    _ = _ := execRun_succ (exec_ckread_second (f := .weekday) nofun rfl) 3
    _ = _ := execRun_succ (exec_ckread_second (f := .day) nofun rfl) 2
    _ = _ := execRun_succ (exec_ckread_second (f := .month) nofun rfl) 1
    _ = _ := (execRun_one ..).trans (exec_ckread_last rfl)
    _ = _ := congrArg Host.Outcome.next (if_pos rfl)

/-- Settles O24: accepted, and then the fourteen steps in a row. -/
theorem ckreadUndisturbedSucceeds : Obligations.CkreadUndisturbedSucceeds := fun _ hidle =>
  (execRun_succ (exec_ckread_idle hidle) 14).trans (execRun_ckread_busy rfl)

/-! ### Second edges -/

/-- The second edges that the ticks of a schedule make, from a half-second phase (R275). -/
def secondEdges (half : Bool) (es : List Event) : Nat := (es.count .htick + if half then 1 else 0) / 2

theorem secondEdges_nil (half : Bool) : secondEdges half [] = 0 := by
  cases half <;> rfl

theorem secondEdges_htick (half : Bool) (es : List Event) :
    secondEdges half (.htick :: es) = (if half then 1 else 0) + secondEdges (!half) es := by
  unfold secondEdges
  rw [List.count_cons_self]
  cases half
  · simp
  · simp
    omega

theorem secondEdges_cons_of_ne {e : Event} (he : e ≠ .htick) (half : Bool) (es : List Event) :
    secondEdges half (e :: es) = secondEdges half es := by
  unfold secondEdges
  rw [List.count_cons_of_ne he]

theorem secondEdges_le_append (half : Bool) (es fs : List Event) :
    secondEdges half es ≤ secondEdges half (es ++ fs) := by
  unfold secondEdges
  rw [List.count_append]
  exact Nat.div_le_div_right (by omega)

theorem nextSecond_s (t : TimeNum) : (nextSecond t).s = if 60 ≤ t.s + 1 then 0 else t.s + 1 := by
  unfold nextSecond nextMinute nextHour nextDate
  split_ifs <;> rfl

/-- A second edge changes the seconds byte, whatever it was: its number is another. -/
theorem advanceWords_sec_ne (w : ClockWords) : wordsField (advanceWords w) .sec ≠ wordsField w .sec := by
  have hnew : wordsField (advanceWords w) .sec = bin2bcd (nextSecond (timeOf w)).s := extract_lo_packWord _ _
  have hold : bcd2bin (wordsField w .sec) = (timeOf w).s := rfl
  intro h
  rw [hnew] at h
  have hnum := congrArg bcd2bin h
  rw [hold, nextSecond_s, bcd2bin_bin2bcd (by split <;> omega)] at hnum
  split at hnum <;> omega

/-! ### Ticks and acknowledges between the steps -/

/-- What a read has to do with, the time registers apart. -/
structure ReadSide where
  seq : Seq
  st : Status
  rb : List Byte
  pri : Snap
  chk : Snap

def State.readSide (s : State) : ReadSide := ⟨s.seq, s.st, s.rb, s.pri, s.chk⟩

/-- A tick or an acknowledge leaves the read alone; the time goes on by the edges it makes. -/
theorem step_of_other_agent {s : State} {e : Event} {rest : List Event} (he : e = .htick ∨ e = .almack)
    (h : s.agenda = e :: rest) :
    ∃ v j, step s = .next v ∧ v.agenda = rest ∧ v.readSide = s.readSide ∧ v.rtcw = advanceWords^[j] s.rtcw ∧
      ∀ es, j + secondEdges v.half es = secondEdges s.half (e :: es) := by
  rcases he with rfl | rfl
  · have hstep : step s = .next { s.renewFree with agenda := rest }.htick := by
      unfold step State.nextStep State.headEvent
      simp only [State.renewFree_agenda, h]
    refine ⟨_, if s.half then 1 else 0, hstep, by simp, by simp [State.readSide], ?_, fun es => ?_⟩
    · cases hh : s.half <;> simp [hh]
    · rw [secondEdges_htick]
      simp
  · have hstep : step s = .next { s.renewFree with agenda := rest }.almack := by
      unfold step State.nextStep State.headEvent
      simp only [State.renewFree_agenda, h]
    refine ⟨_, 0, hstep, by simp, by simp [State.readSide], by simp, fun es => ?_⟩
    rw [secondEdges_cons_of_ne (by simp)]
    simp

theorem stepRun_succ {s u : State} (h : step s = .next u) (n : Nat) : stepRun (n + 1) s = stepRun n u := by
  simp only [stepRun, h]

theorem stepRun_add {m : Nat} {s u : State} (h : stepRun m s = .next u) (n : Nat) :
    stepRun (m + n) s = stepRun n u := by
  induction m generalizing s with
  | zero =>
    cases h
    rw [Nat.zero_add]
  | succ m ih =>
    cases hs : step s with
    | next v =>
      rw [stepRun_succ hs] at h
      rw [Nat.add_right_comm, stepRun_succ hs, ih h]
    | fault | refused => simp [stepRun, hs] at h

/-- The sequencer's move at the head of the agenda performs the command in progress. -/
theorem step_micro_of_busy {s : State} {rest : List Event} {cmd : CmdWord} {pl : List Byte} {k : Nat} {i : Instr}
    (h : s.agenda = .micro :: rest) (hs : s.seq = .busy cmd pl k) (hd : decodeCommand cmd pl = .ok i) :
    step s = exec i { s.renewFree with agenda := rest } :=
  (step_of_micro h).trans (State.micro_of_busy (by exact hs) hd)

/-- What to prove of a predicate on the next micro-step `k`, the number `n` of second edges so far and the
state, so that it goes along a read until its step `last`, whatever falls between the steps. -/
structure GoesAlongRead (cmd : CmdWord) (pl : List Byte) (last : Nat) (I : Nat → Nat → State → Prop) : Prop where
  seq : ∀ k n s, k < last → I k n s → s.seq = .busy cmd pl k
  other : ∀ k n j s v, I k n s → v.readSide = s.readSide → v.rtcw = advanceWords^[j] s.rtcw → I k (n + j) v
  micro : ∀ k n s, k < last → I k n s →
    ∃ v, exec .ckread s = .next v ∧ v.agenda = s.agenda ∧ v.half = s.half ∧ I (k + 1) n v

theorem GoesAlongRead.step_micro {cmd : CmdWord} {pl : List Byte} {last k n : Nat}
    {I : Nat → Nat → State → Prop} (hI : GoesAlongRead cmd pl last I) (hd : decodeCommand cmd pl = .ok .ckread)
    {s : State} {rest : List Event} (h : s.agenda = .micro :: rest) (hk : k < last) (hs : I k n s) :
    ∃ v, step s = .next v ∧ v.agenda = rest ∧ v.half = s.half ∧ I (k + 1) n v := by
  have hs' : I k n { s.renewFree with agenda := rest } := hI.other k n 0 s _ hs rfl rfl
  obtain ⟨v, hx, hagenda, hhalf, hv⟩ := hI.micro k n _ hk hs'
  exact ⟨v, (step_micro_of_busy h (hI.seq k n s hk hs) hd).trans hx, hagenda, hhalf, hv⟩

theorem GoesAlongRead.stepRun {cmd : CmdWord} {pl : List Byte} {last : Nat} {I : Nat → Nat → State → Prop}
    (hI : GoesAlongRead cmd pl last I) (hd : decodeCommand cmd pl = .ok .ckread) {es rest : List Event}
    (hes : ∀ e ∈ es, e = .micro ∨ e = .htick ∨ e = .almack) {s : State} {k n : Nat}
    (hk : k + es.count .micro = last) (h : s.agenda = es ++ rest) (hs : I k n s) :
    ∃ t, stepRun es.length s = .next t ∧ t.agenda = rest ∧ I last (n + secondEdges s.half es) t := by
  induction es generalizing s k n with
  | nil =>
    rw [secondEdges_nil]
    exact ⟨s, rfl, h, hk ▸ hs⟩
  | cons e es ih =>
    obtain ⟨he, htail⟩ := List.forall_mem_cons.1 hes
    rcases he with rfl | he
    · rw [List.count_cons_self] at hk
      obtain ⟨v, hstep, hagenda, hhalf, hv⟩ := hI.step_micro hd h (by omega) hs
      obtain ⟨t, hrun, hrest, ht⟩ := ih htail (by omega) hagenda hv
      rw [secondEdges_cons_of_ne (by simp), ← hhalf]
      exact ⟨t, (stepRun_succ hstep _).trans hrun, hrest, ht⟩
    · obtain ⟨v, j, hstep, hagenda, hside, htime, hedges⟩ := step_of_other_agent he h
      have hne : e ≠ .micro := by rcases he with rfl | rfl <;> simp
      rw [List.count_cons_of_ne hne] at hk
      obtain ⟨t, hrun, hrest, ht⟩ := ih htail hk hagenda (hI.other k n j s v hs hside htime)
      rw [← hedges, ← Nat.add_assoc]
      exact ⟨t, (stepRun_succ hstep _).trans hrun, hrest, ht⟩

/-! ### The first snapshot -/

/-- Before micro-step `k` of the first snapshot of a read that began when the time was `w`, `n` second
edges ago: the seconds are `w`'s, and without an edge so is all that has been read. -/
structure FirstSnapshot (w : ClockWords) (cmd : CmdWord) (pl : List Byte) (k n : Nat) (s : State) : Prop where
  begun : 2 ≤ k
  seq : s.seq = .busy cmd pl k
  time : s.rtcw = advanceWords^[n] w
  sec : snapGet s.pri .sec = wordsField w .sec
  shows : n = 0 → ∀ f, readStep f < k → snapGet s.pri f = wordsField w f

theorem goesAlongRead_firstSnapshot (w : ClockWords) (cmd : CmdWord) (pl : List Byte) :
    GoesAlongRead cmd pl 8 (FirstSnapshot w cmd pl) where
  seq _ _ _ _ hs := hs.seq
  other k n j s v hs hside htime := by
    have hpri : v.pri = s.pri := congrArg ReadSide.pri hside
    refine ⟨hs.begun, (congrArg ReadSide.seq hside).trans hs.seq, ?_, hpri ▸ hs.sec, fun hn => ?_⟩
    · rw [htime, hs.time, ← Function.iterate_add_apply, Nat.add_comm]
    · rw [hpri]
      exact hs.shows (by omega)
  micro k n s hk hs := by
    have hbegun := hs.begun
    obtain ⟨f, rfl⟩ := exists_readStep (k := k) (by omega) (by omega)
    refine ⟨_, exec_ckread_first f hs.seq, rfl, rfl, by omega, rfl, hs.time, ?_, fun hn g hg => ?_⟩
    · have hsec : Field.sec ≠ f := by
        rintro rfl
        exact absurd hbegun (by decide)
      rw [snapGet_snapSet, if_neg hsec]
      exact hs.sec
    · rw [snapGet_snapSet]
      split
      · next hgf =>
        subst hn hgf
        rw [hs.time]
        rfl
      · next hgf =>
        have hne : readStep g ≠ readStep f := fun h => hgf (readStep_injective h)
        exact hs.shows hn g (by omega)

/-- Once all seven fields are read without an edge, `PRI` is the time at the start. -/
theorem FirstSnapshot.pri_eq {w : ClockWords} {cmd : CmdWord} {pl : List Byte} {s : State}
    (h : FirstSnapshot w cmd pl 8 0 s) : s.pri = wordsSnap w := by
  have hshows (f : Field) : snapGet s.pri f = wordsField w f := h.shows rfl f (by cases f <;> decide)
  exact (Snap.mk.injEq ..).mpr ⟨hshows .sec, hshows .min, hshows .hour, hshows .weekday, hshows .day,
    hshows .month, hshows .year⟩

/-- Of at most one edge, none has fallen since the start if the seconds are what they were then. -/
theorem FirstSnapshot.no_edge {w : ClockWords} {cmd : CmdWord} {pl : List Byte} {k n : Nat} {s : State}
    (h : FirstSnapshot w cmd pl k n s) (hn : n ≤ 1)
    (hsec : s.pri.sec = wordsField (advanceWords^[n] w) .sec) : n = 0 := by
  refine (Nat.le_one_iff_eq_zero_or_eq_one.1 hn).resolve_right fun hone => ?_
  rw [hone] at hsec
  exact advanceWords_sec_ne w (hsec.symm.trans h.sec)

/-! ### The second snapshot and the end -/

/-- A read has ended whose first snapshot is `p` and whose second one has the seconds `b`. -/
def State.ReadEnded (p : Snap) (b : Byte) (s : State) : Prop :=
  s.seq = .idle ∧ (s.st = .ok ∧ s.pri = p ∧ s.rb = snapBytes p ∧ p.sec = b ∨ s.st = .tornRead)

/-- Before micro-step `k` of the second snapshot, whose seconds are read, or, at 15, after the end. -/
def SecondSnapshot (p : Snap) (b : Byte) (cmd : CmdWord) (pl : List Byte) (k _n : Nat) (s : State) : Prop :=
  9 ≤ k ∧ if k < 15 then s.seq = .busy cmd pl k ∧ s.pri = p ∧ snapGet s.chk .sec = b else s.ReadEnded p b

theorem State.ReadEnded.of_ok {s : State} {p : Snap} {b : Byte} (h : s.ReadEnded p b) (hok : s.st = .ok) :
    s.pri = p ∧ s.rb = snapBytes p ∧ p.sec = b := by
  rcases h with ⟨-, ⟨-, h⟩ | htorn⟩
  · exact h
  · rw [hok] at htorn
    cases htorn

theorem State.endRead_readEnded {s : State} {p : Snap} {b : Byte} (hpri : s.pri = p) (hsec : s.chk.sec = b) :
    s.endRead.ReadEnded p b := by
  unfold State.endRead
  split
  · next heq => exact ⟨rfl, .inl ⟨rfl, hpri, congrArg snapBytes hpri, by rw [← hpri, heq, hsec]⟩⟩
  · exact ⟨rfl, .inr rfl⟩

theorem goesAlongRead_secondSnapshot (p : Snap) (b : Byte) (cmd : CmdWord) (pl : List Byte) :
    GoesAlongRead cmd pl 15 (SecondSnapshot p b cmd pl) where
  seq k n s hk hs := by
    obtain ⟨-, hs⟩ := hs
    rw [if_pos hk] at hs
    exact hs.1
  other k n j s v hs hside _ := by
    obtain ⟨hseq, hst, hrb, hpri, hchk⟩ := (ReadSide.mk.injEq ..).to_iff.1 hside
    unfold SecondSnapshot State.ReadEnded at *
    rwa [hseq, hst, hrb, hpri, hchk]
  micro k n s hk hs := by
    obtain ⟨h9, hs⟩ := hs
    rw [if_pos hk] at hs
    obtain ⟨hseq, hpri, hsec⟩ := hs
    by_cases hlast : k = 14
    · subst hlast
      have hend : (s.readChk .year).endRead.ReadEnded p b := State.endRead_readEnded hpri hsec
      refine ⟨_, exec_ckread_last hseq, ?_, ?_, by omega, by rwa [if_neg (by omega)]⟩
      all_goals rcases State.endRead_cases (s.readChk .year) with e | e <;> rw [e] <;> rfl
    · obtain ⟨f, hf⟩ := exists_readStep (k := k - 7) (by omega) (by omega)
      obtain rfl : k = 7 + readStep f := by omega
      have hyear : f ≠ .year := by
        rintro rfl
        exact hlast rfl
      have hne : Field.sec ≠ f := by
        rintro rfl
        exact absurd h9 (by decide)
      refine ⟨_, exec_ckread_second hyear hseq, rfl, rfl, by omega, ?_⟩
      rw [if_pos (by omega), snapGet_snapSet, if_neg hne]
      exact ⟨rfl, hpri, hsec⟩

/-! ### The read among ticks and acknowledges -/

/-- The event that comes after the first `n` of its kind. -/
theorem exists_append_of_lt_count {es : List Event} {e : Event} {n : Nat} (h : n < es.count e) :
    ∃ p q, es = p ++ e :: q ∧ p.count e = n := by
  induction es generalizing n with
  | nil => cases h
  | cons d es ih =>
    by_cases hd : d = e
    · subst hd
      cases n with
      | zero => exact ⟨[], es, rfl, rfl⟩
      | succ n =>
        rw [List.count_cons_self] at h
        obtain ⟨p, q, rfl, hp⟩ := ih (Nat.lt_of_succ_lt_succ h)
        exact ⟨d :: p, q, rfl, by rw [List.count_cons_self, hp]⟩
    · rw [List.count_cons_of_ne hd] at h
      obtain ⟨p, q, rfl, hp⟩ := ih h
      exact ⟨d :: p, q, rfl, by rw [List.count_cons_of_ne hd, hp]⟩

section Read

variable {s : State} {cmd : CmdWord} {pl : List Byte} {es : List Event}

theorem step_ckread_begins (hd : decodeCommand cmd pl = .ok .ckread) (hseq : s.seq = .busy cmd pl 1)
    (h : s.agenda = .micro :: es) :
    ∃ u, step s = .next u ∧ u.agenda = es ∧ u.half = s.half ∧ FirstSnapshot s.rtcw cmd pl 2 0 u := by
  have hx := exec_ckread_first (s := { s.renewFree with agenda := es }) .sec hseq
  refine ⟨_, (step_micro_of_busy h hseq hd).trans hx, rfl, rfl, Nat.le_refl 2, rfl,
    rfl, rfl, fun _ f hf => ?_⟩
  cases f with
  | sec => rfl
  | _ => exact absurd hf (by decide)

/-- Step 8 reads the seconds again, of the time as it is then. -/
theorem FirstSnapshot.step_second {w : ClockWords} {n : Nat} (hs : FirstSnapshot w cmd pl 8 n s)
    (hd : decodeCommand cmd pl = .ok .ckread) (h : s.agenda = .micro :: es) : ∃ u, step s = .next u ∧
      u.agenda = es ∧ SecondSnapshot s.pri (wordsField (advanceWords^[n] w) .sec) cmd pl 9 n u := by
  have hx := exec_ckread_second (s := { s.renewFree with agenda := es }) (f := .sec) nofun hs.seq
  refine ⟨_, (step_micro_of_busy h hs.seq hd).trans hx, rfl, Nat.le_refl 9, ?_⟩
  rw [if_pos (by decide), ← hs.time]
  exact ⟨rfl, rfl, rfl⟩

/-- A whole read, its schedule split at step 8: the seconds of the second snapshot are those after the
edges of the part before it. -/
theorem stepRun_ckread {p q : List Event} (hd : decodeCommand cmd pl = .ok .ckread)
    (hseq : s.seq = .busy cmd pl 1) (h : s.agenda = .micro :: (p ++ .micro :: q))
    (hes : ∀ e ∈ p ++ .micro :: q, e = .micro ∨ e = .htick ∨ e = .almack)
    (hp : p.count .micro = 6) (hq : q.count .micro = 6) :
    ∃ t u, stepRun ((p ++ .micro :: q).length + 1) s = .next t ∧
      FirstSnapshot s.rtcw cmd pl 8 (secondEdges s.half p) u ∧
      t.ReadEnded u.pri (wordsField (advanceWords^[secondEdges s.half p] s.rtcw) .sec) := by
  obtain ⟨hesp, hesq⟩ := List.forall_mem_append.1 hes
  obtain ⟨-, hesq⟩ := List.forall_mem_cons.1 hesq
  obtain ⟨s₁, hstep₁, hagenda₁, hhalf, hfirst⟩ := step_ckread_begins hd hseq h
  obtain ⟨u, hrun, hagenda, hu⟩ :=
    (goesAlongRead_firstSnapshot ..).stepRun hd hesp (by omega) hagenda₁ hfirst
  rw [hhalf, Nat.zero_add] at hu
  obtain ⟨s₂, hstep₂, hagenda₂, hsecond⟩ := hu.step_second hd hagenda
  obtain ⟨t, hrun', -, -, ht⟩ :=
    (goesAlongRead_secondSnapshot ..).stepRun hd hesq (by omega) (hagenda₂.trans (List.append_nil q).symm) hsecond
  refine ⟨t, u, ?_, hu, ht⟩
  calc stepRun ((p ++ .micro :: q).length + 1) s
    _ = stepRun (p ++ .micro :: q).length s₁ := stepRun_succ hstep₁ _
    _ = stepRun (p.length + (q.length + 1)) s₁ := by rw [List.length_append, List.length_cons]
    _ = stepRun (q.length + 1) u := stepRun_add hrun _
    _ = stepRun q.length s₂ := stepRun_succ hstep₂ _
    _ = .next t := hrun'

end Read

/-- Settles O25: an edge between the two readings of the seconds, of which there is at most one, makes
them differ, and then the comparison fails. -/
theorem ckreadWithOneEdgeIsSound : Obligations.CkreadWithOneEdgeIsSound := by
  intro s cmd pl sched hseq hd hagenda hes hcount hedges
  have hread (p q : List Event) (hsched : sched = p ++ .micro :: q) (hp : p.count .micro = 6) :
      ∃ t u, stepRun (sched.length + 1) s = .next t ∧
        FirstSnapshot s.rtcw cmd pl 8 (secondEdges s.half p) u ∧
        t.ReadEnded u.pri (wordsField (advanceWords^[secondEdges s.half p] s.rtcw) .sec) := by
    subst hsched
    rw [List.count_append, List.count_cons_self] at hcount
    exact stepRun_ckread hd hseq hagenda hes hp (by omega)
  have hone (p q : List Event) (hsched : sched = p ++ .micro :: q) : secondEdges s.half p ≤ 1 :=
    (hsched ▸ secondEdges_le_append s.half p _).trans hedges
  obtain ⟨p, q, hsched, hp⟩ := exists_append_of_lt_count (show 6 < sched.count .micro by omega)
  obtain ⟨t, u, hrun, hu, hend⟩ := hread p q hsched hp
  refine ⟨t, hrun, hend.1, hend.2.imp And.left id, fun hok => ?_⟩
  obtain ⟨hpri, hrb, hsec⟩ := hend.of_ok hok
  have hzero := hu.no_edge (hone p q hsched) hsec
  rw [hzero] at hu
  rw [hpri, hrb, hu.pri_eq]
  refine ⟨rfl, rfl, fun p' q' hsched' hp' => ?_⟩
  obtain ⟨t', u', hrun', hu', hend'⟩ := hread p' q' hsched' hp'
  cases hrun.symm.trans hrun'
  obtain ⟨-, -, hsec'⟩ := hend'.of_ok hok
  exact hu'.no_edge (hone p' q' hsched') hsec'

end Sys2Proof.Machine
end

section
/-! Writing the clock (R214): the ten micro-steps of CKCOMMIT by their equations, and the commit run
alone, which opens the lock, writes the four words and closes it. -/

namespace Sys2Proof.Machine

/-! ### Writes -/

/-- The year's word as it is packed: its high byte is the zero that is hard-wired (R35, R37). -/
theorem writeWord_year (w : ClockWords) (y : Byte) :
    writeWord w 3 (packWord 0x00#8 y) = { w with w3 := packWord 0x00#8 y } :=
  congrArg (ClockWords.mk w.w0 w.w1 w.w2) (packWord_hardwired y)

theorem State.writeRtcw_eq (s : State) (i : Fin 4) (v : Half) :
    s.writeRtcw i v = { s with rtcw := if s.wren then writeWord s.rtcw i v else s.rtcw } := by
  unfold State.writeRtcw
  split <;> rfl

theorem State.writeProt_key1 {s : State} (h : s.keyst = 0#2) :
    s.writeProt s.params.key1 = { s with prot := s.params.key1, keyst := 1#2 } := by
  unfold State.writeProt
  rw [if_pos ⟨rfl, h⟩]

theorem State.writeProt_key2 {s : State} (h : s.keyst = 1#2) :
    s.writeProt s.params.key2 = { s with prot := s.params.key2, keyst := 2#2 } := by
  unfold State.writeProt
  rw [if_neg (by simp [h]), if_pos ⟨rfl, h⟩]

/-! ### The micro-steps -/

/-- The packed words of a snapshot (R35). -/
def snapWord (p : Snap) : Fin 4 → Half
  | 0 => packWord p.min p.sec
  | 1 => packWord p.weekday p.hour
  | 2 => packWord p.month p.day
  | 3 => packWord 0x00#8 p.year

section Equations

variable {s : State} {cmd : CmdWord} {pl : List Byte}

theorem exec_ckcommit_idle (h : s.seq = .idle) : exec .ckcommit s = .next s.accept := by
  rw [State.eq_with_seq h]
  rfl

theorem exec_ckcommit_weekday (h : s.seq = .busy cmd pl 1) : exec .ckcommit s = .next { s with
    pri := { s.pri with weekday := weekdayByte s.pri.year s.pri.month s.pri.day }
    irqinh := true
    seq := .busy cmd pl 2 } := by
  rw [State.eq_with_seq h]
  rfl

theorem exec_ckcommit_key1 (h : s.seq = .busy cmd pl 2) (hkey : s.keyst = 0#2) :
    exec .ckcommit s = .next { s with prot := s.params.key1, keyst := 1#2, seq := .busy cmd pl 3 } := by
  have hstep : exec .ckcommit s = .next ((s.writeProt s.params.key1).goto 3) := by
    rw [State.eq_with_seq h]
    rfl
  rw [hstep, State.goto_eq_of (State.writeProt_seq ..) h, State.writeProt_key1 hkey]

theorem exec_ckcommit_key2 (h : s.seq = .busy cmd pl 3) (hkey : s.keyst = 1#2) :
    exec .ckcommit s = .next { s with prot := s.params.key2, keyst := 2#2, seq := .busy cmd pl 4 } := by
  have hstep : exec .ckcommit s = .next ((s.writeProt s.params.key2).goto 4) := by
    rw [State.eq_with_seq h]
    rfl
  rw [hstep, State.goto_eq_of (State.writeProt_seq ..) h, State.writeProt_key2 hkey]

theorem exec_ckcommit_enable (h : s.seq = .busy cmd pl 4) : exec .ckcommit s = .next { s with
    wren := s.wren || decide (s.keyst = 2#2)
    keyst := 0#2
    seq := .busy cmd pl 5 } := by
  rw [State.eq_with_seq h]
  rfl

theorem exec_ckcommit_uninhibit (h : s.seq = .busy cmd pl 5) :
    exec .ckcommit s = .next { s with irqinh := false, seq := .busy cmd pl 6 } := by
  rw [State.eq_with_seq h]
  rfl

/-- Steps 6 to 9 write the words 3 to 0. -/
theorem exec_ckcommit_word (i : Fin 4) (h : s.seq = .busy cmd pl (9 - i)) : exec .ckcommit s = .next { s with
    rtcw := if s.wren then writeWord s.rtcw i (snapWord s.pri i) else s.rtcw
    seq := .busy cmd pl (10 - i) } := by
  have hstep : exec .ckcommit s = .next ((s.writeRtcw i (snapWord s.pri i)).goto (10 - i)) := by
    rw [State.eq_with_seq h]
    match i with
    | 0 | 1 | 2 | 3 => rfl
  rw [hstep, State.goto_eq_of (State.writeRtcw_seq ..) h, State.writeRtcw_eq]

theorem exec_ckcommit_year (h : s.seq = .busy cmd pl 6) : exec .ckcommit s = .next { s with
    rtcw := if s.wren then { s.rtcw with w3 := packWord 0x00#8 s.pri.year } else s.rtcw
    seq := .busy cmd pl 7 } := by
  rw [exec_ckcommit_word 3 h, snapWord, writeWord_year]
  rfl

theorem exec_ckcommit_last (h : s.seq = .busy cmd pl 10) :
    exec .ckcommit s = .next { s.responded 0#32 [] false with wren := false } := by
  rw [State.eq_with_seq h]
  rfl

end Equations

/-- Settles O26: the steps in order. -/
theorem commitStepByStep : Obligations.CommitStepByStep := fun _ _ _ =>
  ⟨exec_ckcommit_idle, exec_ckcommit_weekday, exec_ckcommit_key1, exec_ckcommit_key2, exec_ckcommit_enable,
    exec_ckcommit_uninhibit, exec_ckcommit_year, exec_ckcommit_word 2, exec_ckcommit_word 1,
    exec_ckcommit_word 0, exec_ckcommit_last⟩

/-! ### The commit run alone -/

section Run

variable {s : State} {cmd : CmdWord} {pl : List Byte}

/-- Steps 1 to 5 of a commit leave the time registers writable. -/
theorem execRun_ckcommit_opens (h : s.seq = .busy cmd pl 1) (hkey : s.keyst = 0#2) :
    execRun .ckcommit 5 s = .next { s with
      pri := { s.pri with weekday := weekdayByte s.pri.year s.pri.month s.pri.day }
      prot := s.params.key2
      wren := true
      keyst := 0#2
      irqinh := false
      seq := .busy cmd pl 6 } :=
  calc execRun .ckcommit 5 s
    _ = _ := execRun_succ (exec_ckcommit_weekday h) 4
    _ = _ := execRun_succ (exec_ckcommit_key1 rfl (by exact hkey)) 3
    _ = _ := execRun_succ (exec_ckcommit_key2 rfl rfl) 2
    _ = _ := execRun_succ (exec_ckcommit_enable rfl) 1
    _ = _ := (execRun_one ..).trans (exec_ckcommit_uninhibit rfl)
    _ = _ := by simp

/-- Steps 6 to 10 with the enable set write all four words and clear it. -/
theorem execRun_ckcommit_writes (h : s.seq = .busy cmd pl 6) (hwren : s.wren = true) :
    execRun .ckcommit 5 s = .next { s.responded 0#32 [] false with
      rtcw := ⟨snapWord s.pri 0, snapWord s.pri 1, snapWord s.pri 2, snapWord s.pri 3⟩
      wren := false } :=
  calc execRun .ckcommit 5 s
    _ = _ := execRun_succ (exec_ckcommit_year h) 4
    _ = _ := execRun_succ (exec_ckcommit_word 2 rfl) 3
    _ = _ := execRun_succ (exec_ckcommit_word 1 rfl) 2
    _ = _ := execRun_succ (exec_ckcommit_word 0 rfl) 1
    _ = _ := (execRun_one ..).trans (exec_ckcommit_last rfl)
    _ = _ := by simp [hwren, writeWord, snapWord, State.responded]

end Run

/-- Settles O27: accepted, opened, written; the lock is left as it was found. -/
theorem commitUndisturbedSetsTheClock : Obligations.CommitUndisturbedSetsTheClock := by
  intro s hidle ⟨hwren, hirq, hkey⟩ p wd
  calc execRun .ckcommit 11 s
    _ = execRun .ckcommit 10 s.accept := execRun_succ (exec_ckcommit_idle hidle) 10
    _ = _ := execRun_add (execRun_ckcommit_opens (s := s.accept) rfl hkey) 5
    _ = _ := execRun_ckcommit_writes rfl rfl
    _ = _ := by simp [State.responded, hwren, hirq, hkey, snapWord, weekdayByte, p, wd]

end Sys2Proof.Machine
end

section
/-! The alarm registers (R230, R232): the micro-steps of SETALM and ARMALM by their equations, and both
commands run alone. -/

namespace Sys2Proof.Machine

/-! ### SETALM -/

section Setalm

variable {s : State} {cmd : CmdWord} {pl : List Byte}

theorem setAlrmen_false (cfg : BitVec 8) : setAlrmen cfg false = cfg &&& 0x7F#8 := BitVec.or_zero

theorem exec_setalm_idle (h : s.seq = .idle) : exec .setalm s = .next s.accept := by
  rw [State.eq_with_seq h]
  rfl

theorem exec_setalm_disable (h : s.seq = .busy cmd pl 1) :
    exec .setalm s = .next { s with alcfg := s.alcfg &&& 0x7F#8, seq := .busy cmd pl 2 } := by
  rw [State.eq_with_seq h, ← setAlrmen_false]
  rfl

theorem exec_setalm_year (h : s.seq = .busy cmd pl 2) : exec .setalm s = .next { s with
    alrmw := { s.alrmw with w3 := packWord 0x00#8 s.alm.year }
    seq := .busy cmd pl 3 } := by
  rw [State.eq_with_seq h, ← writeWord_year]
  rfl

theorem exec_setalm_date (h : s.seq = .busy cmd pl 3) : exec .setalm s = .next { s with
    alrmw := { s.alrmw with w2 := packWord s.alm.month s.alm.day }
    seq := .busy cmd pl 4 } := by
  rw [State.eq_with_seq h]
  rfl

theorem exec_setalm_weekday (h : s.seq = .busy cmd pl 4) : exec .setalm s = .next { s with
    alrmw := { s.alrmw with
      w1 := packWord (weekdayByte s.alm.year s.alm.month s.alm.day) s.alm.hour }
    seq := .busy cmd pl 5 } := by
  rw [State.eq_with_seq h]
  rfl

theorem exec_setalm_last (h : s.seq = .busy cmd pl 5) : exec .setalm s = .next
    { s.responded 0#32 [] false with alrmw := { s.alrmw with w0 := packWord s.alm.min s.alm.sec } } := by
  rw [State.eq_with_seq h]
  rfl

theorem execRun_setalm (h : s.seq = .idle) : execRun .setalm 6 s = .next { s.responded 0#32 [] false with
    alcfg := s.alcfg &&& 0x7F#8
    alrmw := ⟨packWord s.alm.min s.alm.sec,
      packWord (weekdayByte s.alm.year s.alm.month s.alm.day) s.alm.hour,
      packWord s.alm.month s.alm.day, packWord 0x00#8 s.alm.year⟩ } :=
  calc execRun .setalm 6 s
    _ = execRun .setalm 5 s.accept := execRun_succ (exec_setalm_idle h) 5
    _ = _ := execRun_succ (exec_setalm_disable rfl) 4
    _ = _ := execRun_succ (exec_setalm_year rfl) 3
    _ = _ := execRun_succ (exec_setalm_date rfl) 2
    _ = _ := execRun_succ (exec_setalm_weekday rfl) 1
    _ = _ := (execRun_one ..).trans (exec_setalm_last rfl)

end Setalm

/-- Settles O34: the steps in order, and the run. -/
theorem setalmDisablesThenLoads : Obligations.SetalmDisablesThenLoads := fun _ _ _ =>
  ⟨exec_setalm_disable, exec_setalm_year, exec_setalm_date, exec_setalm_weekday, exec_setalm_last,
    fun hidle => ⟨exec_setalm_idle hidle, execRun_setalm hidle⟩⟩

/-! ### ARMALM -/

theorem setAmask_highNibble (cfg : BitVec 8) (m : BitVec 4) :
    (setAmask cfg m).extractLsb' 4 4 = cfg.extractLsb' 4 4 := by
  unfold setAmask
  ext i hi
  have hcases : i = 0 ∨ i = 1 ∨ i = 2 ∨ i = 3 := by omega
  rcases hcases with rfl | rfl | rfl | rfl <;> simp

theorem setAlrmen_true_bits (cfg : BitVec 8) :
    (setAlrmen cfg true).extractLsb' 0 7 = cfg.extractLsb' 0 7 ∧ (setAlrmen cfg true).getLsbD 7 = true := by
  revert cfg
  decide

section Armalm

variable {m : BitVec 4} {s : State} {cmd : CmdWord} {pl : List Byte}

theorem exec_armalm_idle (h : s.seq = .idle) : exec (.armalm m) s = .next s.accept := by
  rw [State.eq_with_seq h]
  rfl

theorem exec_armalm_first (h : s.seq = .busy cmd pl 1) : exec (.armalm m) s = .next
    (if 9 < m.toNat then s.raise .badArg
     else { s with alcfg := setAmask s.alcfg m, seq := .busy cmd pl 2 }) := by
  rw [State.eq_with_seq h]
  rfl

theorem exec_armalm_mask (h : s.seq = .busy cmd pl 1) (hm : m.toNat ≤ 9) :
    exec (.armalm m) s = .next { s with alcfg := setAmask s.alcfg m, seq := .busy cmd pl 2 } := by
  rw [exec_armalm_first h, if_neg (Nat.not_lt.2 hm)]

theorem exec_armalm_refused (h : s.seq = .busy cmd pl 1) (hm : 9 < m.toNat) :
    exec (.armalm m) s = .next (s.failed .badArg) := by
  rw [exec_armalm_first h, if_pos hm]
  rfl

theorem exec_armalm_enable (h : s.seq = .busy cmd pl 2) :
    exec (.armalm m) s = .next { s.responded 0#32 [] false with alcfg := setAlrmen s.alcfg true } := by
  rw [State.eq_with_seq h]
  rfl

theorem execRun_armalm (h : s.seq = .idle) (hm : m.toNat ≤ 9) : execRun (.armalm m) 3 s = .next
    { s.responded 0#32 [] false with alcfg := setAlrmen (setAmask s.alcfg m) true } :=
  calc execRun (.armalm m) 3 s
    _ = execRun (.armalm m) 2 s.accept := execRun_succ (exec_armalm_idle h) 2
    _ = _ := execRun_succ (exec_armalm_mask rfl hm) 1
    _ = _ := (execRun_one ..).trans (exec_armalm_enable rfl)

theorem execRun_armalm_refused (h : s.seq = .idle) (hm : 9 < m.toNat) :
    execRun (.armalm m) 2 s = .next (s.failed .badArg) :=
  calc execRun (.armalm m) 2 s
    _ = execRun (.armalm m) 1 s.accept := execRun_succ (exec_armalm_idle h) 1
    _ = _ := (execRun_one ..).trans (exec_armalm_refused rfl hm)

end Armalm

/-- Settles O35: the steps and the runs, with what each write leaves of `ALCFG`. -/
theorem armalmSetsMaskThenEnables : Obligations.ArmalmSetsMaskThenEnables := by
  intro m s cmd pl
  obtain ⟨hreserved, hmask⟩ := setAmask_legal s.alcfg m
  refine ⟨fun h hm => ⟨_, exec_armalm_mask h hm, hmask, setAmask_highNibble ..⟩, exec_armalm_refused,
    fun h => ⟨_, exec_armalm_enable h, setAlrmen_true_bits _⟩, fun h => ⟨exec_armalm_idle h, fun hm => ?_,
    execRun_armalm_refused h⟩⟩
  obtain ⟨hreserved', hmask'⟩ := setAlrmen_legal (setAmask s.alcfg m) true
  exact ⟨_, execRun_armalm h hm, hmask'.trans hmask, hreserved'.trans hreserved, (setAlrmen_true_bits _).2⟩

end Sys2Proof.Machine
end

section
/-! Who writes the clock and the alarm registers (R217): the time registers, the lock and the interrupt
inhibit; the alarm words, their configuration and the alarm flag. -/

namespace Sys2Proof.Machine

/-! ### What is owned -/

/-- The time registers, their lock and the interrupt inhibit. -/
structure TimeSide where
  rtcw : ClockWords
  wren : Bool
  prot : Byte
  keyst : BitVec 2
  irqinh : Bool

/-- The alarm registers and the alarm flag. -/
structure AlarmSide where
  alrmw : ClockWords
  alcfg : BitVec 8
  almif : Bool

def State.timeSide (s : State) : TimeSide := ⟨s.rtcw, s.wren, s.prot, s.keyst, s.irqinh⟩

def State.alarmSide (s : State) : AlarmSide := ⟨s.alrmw, s.alcfg, s.almif⟩

/-- Both sides are as they were. -/
def State.SameOwned (s t : State) : Prop := t.timeSide = s.timeSide ∧ t.alarmSide = s.alarmSide

theorem State.timeSide_eq_iff {s t : State} : t.timeSide = s.timeSide ↔
    t.rtcw = s.rtcw ∧ t.wren = s.wren ∧ t.prot = s.prot ∧ t.keyst = s.keyst ∧ t.irqinh = s.irqinh :=
  (TimeSide.mk.injEq ..).to_iff

theorem State.alarmSide_eq_iff {s t : State} : t.alarmSide = s.alarmSide ↔
    t.alrmw = s.alrmw ∧ t.alcfg = s.alcfg ∧ t.almif = s.almif :=
  (AlarmSide.mk.injEq ..).to_iff

@[simp] theorem State.goto_timeSide (s : State) (k : Nat) : (s.goto k).timeSide = s.timeSide := by
  unfold State.goto
  split <;> rfl

@[simp] theorem State.goto_alarmSide (s : State) (k : Nat) : (s.goto k).alarmSide = s.alarmSide := by
  unfold State.goto
  split <;> rfl

theorem State.SameOwned.of_goto {s u : State} (h : s.SameOwned u) (k : Nat) : s.SameOwned (u.goto k) :=
  ⟨(State.goto_timeSide u k).trans h.1, (State.goto_alarmSide u k).trans h.2⟩

/-! ### Every command -/

theorem State.xact_sameOwned {s t : State} {k : Nat} {f : List Byte} {n : Nat} {ok : State → Result}
    (h : s.xact k f n ok = .next t) (hok : ∀ u, ok u = .next t → ∃ r rb, t = u.done r rb false) :
    s.SameOwned t := by
  rcases State.xact_next h with ⟨-, h⟩ | ⟨-, h⟩ | ⟨-, rfl⟩ | ⟨-, h⟩ | ⟨-, h⟩
  · obtain ⟨-, rfl⟩ := State.xactBuild_next h
    exact .of_goto ⟨rfl, rfl⟩ _
  · rcases State.xactSend_next h with ⟨-, -, rfl⟩ | ⟨-, rfl⟩ <;> exact .of_goto ⟨rfl, rfl⟩ _
  · exact .of_goto ⟨rfl, rfl⟩ _
  · rcases State.xactPoll_cases s with ⟨b, -, e⟩ | ⟨-, e⟩ <;> rw [e] at h
    · obtain ⟨-, ⟨-, rfl⟩ | ⟨-, rfl⟩⟩ := State.xactByte_next h
      · exact .of_goto ⟨rfl, rfl⟩ _
      · exact ⟨rfl, rfl⟩
    · rcases State.xactNone_cases s.renewFree.rxAdvance with ⟨-, e⟩ | ⟨-, e⟩ <;> rw [e] at h <;> cases h <;>
        exact ⟨rfl, rfl⟩
  · obtain ⟨-, ⟨-, h⟩ | ⟨-, rfl⟩⟩ := State.xactCheck_next h
    · obtain ⟨r, rb, rfl⟩ := hok _ h
      exact ⟨rfl, rfl⟩
    · exact ⟨rfl, rfl⟩

theorem execCkread_sameOwned {s t : State} {cmd : CmdWord} {pl : List Byte} {k : Nat}
    (hbusy : s.seq = .busy cmd pl k) (h : execCkread s = .next t) : s.SameOwned t := by
  rcases execCkread_next hbusy h with ⟨f, -, rfl⟩ | ⟨f, -, rfl⟩ | rfl
  · exact .of_goto ⟨rfl, rfl⟩ _
  · exact .of_goto ⟨rfl, rfl⟩ _
  · rcases State.endRead_cases (s.readChk .year) with e | e <;> rw [e] <;> exact ⟨rfl, rfl⟩

theorem execCkcommit_alarmSide {s t : State} (h : execCkcommit s = .next t) : t.alarmSide = s.alarmSide := by
  unfold execCkcommit at h
  split at h
  · cases h
    rfl
  · split at h <;> cases h <;> simp [State.alarmSide]

theorem execSetalm_timeSide {s t : State} (h : execSetalm s = .next t) :
    t.timeSide = s.timeSide ∧ t.almif = s.almif := by
  unfold execSetalm at h
  split at h
  · cases h
    exact ⟨rfl, rfl⟩
  · split at h <;> cases h <;> simp [State.timeSide]

theorem execArmalm_timeSide {s t : State} {cmd : CmdWord} {pl : List Byte} {k : Nat} {m : BitVec 4}
    (hbusy : s.seq = .busy cmd pl k) (h : execArmalm m s = .next t) :
    t.timeSide = s.timeSide ∧ t.alrmw = s.alrmw ∧ t.almif = s.almif := by
  rcases execArmalm_next hbusy h with rfl | ⟨-, rfl⟩ | rfl
  · exact ⟨rfl, rfl, rfl⟩
  · simp [State.timeSide]
  · exact ⟨rfl, rfl, rfl⟩

/-- What the command `i` may write of what is owned. -/
structure Owns (i : Instr) (s t : State) : Prop where
  time : t.timeSide = s.timeSide ∨ i = .ckcommit
  words : t.alrmw = s.alrmw ∨ i = .setalm
  config : t.alcfg = s.alcfg ∨ i = .setalm ∨ ∃ m, i = .armalm m
  flag : t.almif = s.almif

theorem State.SameOwned.owns {i : Instr} {s t : State} (h : s.SameOwned t) : Owns i s t := by
  obtain ⟨hwords, hconfig, hflag⟩ := State.alarmSide_eq_iff.1 h.2
  exact ⟨.inl h.1, .inl hwords, .inl hconfig, hflag⟩

theorem Ran.owns {i : Instr} {s t : State} (h : Ran i s t) : Owns i s t := by
  cases h with
  | failed | answered | loaded | tagged | set | accepted => exact State.SameOwned.owns ⟨rfl, rfl⟩
  | transacted _ _ _ hstep _ hok => exact (State.xact_sameOwned hstep hok).owns
  | read _ hbusy hstep => exact (execCkread_sameOwned hbusy hstep).owns
  | committed hi _ hstep =>
    obtain ⟨hwords, hconfig, hflag⟩ := State.alarmSide_eq_iff.1 (execCkcommit_alarmSide hstep)
    exact ⟨.inr hi, .inl hwords, .inl hconfig, hflag⟩
  | alarmSet hi _ hstep =>
    obtain ⟨htime, hflag⟩ := execSetalm_timeSide hstep
    exact ⟨.inl htime, .inr hi, .inr (.inl hi), hflag⟩
  | armed hi hbusy hstep =>
    obtain ⟨htime, hwords, hflag⟩ := execArmalm_timeSide hbusy hstep
    exact ⟨.inl htime, .inl hwords, .inr (.inr ⟨_, hi⟩), hflag⟩

/-- A command that the port takes writes nothing of what is owned before its first micro-step. -/
theorem Ran.sameOwned_of_idle {i : Instr} {s t : State} (h : Ran i s t) (hidle : s.seq = .idle) :
    s.SameOwned t := by
  cases h with
  | failed | answered | loaded | tagged | set | accepted => exact ⟨rfl, rfl⟩
  | transacted hbusy | read _ hbusy | committed _ hbusy | alarmSet _ hbusy | armed _ hbusy =>
    exact nomatch hidle.symm.trans hbusy

/-! ### The events -/

theorem State.htick_almif (s : State) : s.htick.almif = s.almif ∨ s.htick.almif = true := by
  unfold State.htick State.compareAlarm
  split <;> split
  · exact .inr rfl
  · exact .inl rfl
  · exact .inr rfl
  · exact .inl rfl

theorem State.almack_almif (s : State) : s.almack.almif = s.almif ∨ s.almack.almif = false := by
  unfold State.almack
  split
  · exact .inr rfl
  · exact .inl rfl

/-! ### Every step -/

theorem State.micro_owns {s t : State} (h : s.micro = .next t) :
    s.SameOwned t ∨ ∃ i k, s.running = some (i, k) ∧ Owns i s t := by
  unfold State.micro at h
  split at h
  · cases h
    exact .inl ⟨rfl, rfl⟩
  · next cmd pl k hbusy =>
    split at h
    · next i hd =>
      exact .inr ⟨i, k, State.running_of_busy hbusy hd, (exec_ran (isCommand_of_decodeCommand hd) h).owns⟩
    · cases h
      exact .inl ⟨rfl, rfl⟩

theorem State.issue_sameOwned {s t : State} {cmd : CmdWord} {pl : List Byte} (hidle : s.seq = .idle)
    (h : s.issue cmd pl = .next t) : s.SameOwned t := by
  unfold State.issue at h
  split at h
  · cases h
    exact ⟨rfl, rfl⟩
  · next i hd =>
    split at h
    · exact (exec_ran (isCommand_of_decodeCommand hd) h).sameOwned_of_idle hidle
    · cases h

/-- What a step of the machine, RESET apart, writes of what is owned. -/
inductive StepOwns (s t : State) : Prop
  | nothing (h : s.SameOwned t)
  | command {i : Instr} {k : Nat} (hrun : s.running = some (i, k)) (h : Owns i s t)
  | tick (hhead : s.agenda.head? = some .htick)
      (hlock : t.wren = s.wren ∧ t.prot = s.prot ∧ t.keyst = s.keyst ∧ t.irqinh = s.irqinh)
      (hwords : t.alrmw = s.alrmw) (hflag : t.almif = s.almif ∨ t.almif = true)
  | ack (hhead : s.agenda.head? = some .almack) (htime : t.timeSide = s.timeSide)
      (hwords : t.alrmw = s.alrmw) (hflag : t.almif = s.almif ∨ t.almif = false)

/-- What stands around the block is not owned. -/
theorem StepOwns.of_micro {s t : State} {agenda : List Event}
    (h : { s.renewFree with agenda := agenda }.micro = .next t) : StepOwns s t := by
  rcases State.micro_owns h with hsame | ⟨i, k, hrun, howns⟩
  · exact .nothing hsame
  · exact .command hrun ⟨howns.time, howns.words, howns.config, howns.flag⟩

theorem step_owns {s t : State} (h : step s = .next t) (hreset : s.agenda.head? ≠ some .reset) :
    StepOwns s t := by
  rcases step_cases s with ⟨-, e⟩ | ⟨rest, -, e⟩ | ⟨rest, ha, e⟩ | ⟨rest, ha, e⟩ | ⟨rest, ha, e⟩ |
    ⟨fmt, bytes, rest, -, e⟩ | ⟨cmd, pl, rest, -, hidle, e⟩ | ⟨cmd, pl, rest, -, -, e⟩ <;> rw [e] at h
  · exact .of_micro (agenda := s.agenda) h
  · exact .of_micro h
  · cases h
    exact .tick (by rw [ha]; rfl) (by simp) (by simp) (State.htick_almif { s.renewFree with agenda := rest })
  · cases h
    exact .ack (by rw [ha]; rfl) (by simp [State.timeSide]) (by simp)
      (State.almack_almif { s.renewFree with agenda := rest })
  · exact absurd (by rw [ha]; rfl) hreset
  · obtain ⟨tx, rx, e'⟩ := State.carry_eq { s.renewFree with agenda := rest } fmt bytes
    rw [e'] at h
    cases h
    exact .nothing ⟨rfl, rfl⟩
  · exact .nothing (State.issue_sameOwned (s := { s.renewFree with agenda := rest }) hidle h)
  · exact .of_micro (agenda := s.agenda) h

/-- Settles O28: by what the step writes of what is owned; a register that has changed is not one of
those left alone. -/
theorem onlyTheirOwnersWriteTheClock : Obligations.OnlyTheirOwnersWriteTheClock := by
  intro s t h hreset
  cases step_owns h hreset with
  | nothing hsame =>
    obtain ⟨hrtcw, hlock⟩ := State.timeSide_eq_iff.1 hsame.1
    obtain ⟨hwords, hconfig, hflag⟩ := State.alarmSide_eq_iff.1 hsame.2
    exact ⟨fun hne => absurd hrtcw hne, fun hne => absurd hlock (by tauto),
      fun hne => absurd hflag hne, fun hne => absurd hwords hne, fun hne => absurd hconfig hne⟩
  | @command i k hrun howns =>
    have htime (hne : t.timeSide ≠ s.timeSide) : ∃ k, s.running = some (.ckcommit, k) :=
      ⟨k, howns.time.resolve_left hne ▸ hrun⟩
    refine ⟨fun hne => .inr (htime ?_), fun hne => htime ?_, fun hne => absurd howns.flag hne,
      fun hne => ⟨k, howns.words.resolve_left hne ▸ hrun⟩, fun hne => .inr (.inr ⟨k, ?_⟩)⟩
    · exact fun heq => hne (congrArg TimeSide.rtcw heq)
    · intro heq
      obtain ⟨-, hlock⟩ := State.timeSide_eq_iff.1 heq
      tauto
    · rcases howns.config.resolve_left hne with rfl | ⟨m, rfl⟩
      · exact .inl hrun
      · exact .inr ⟨m, hrun⟩
  | tick hhead hlock hwords hflag =>
    exact ⟨fun _ => .inl hhead, fun hne => absurd hlock (by tauto),
      fun hne => .inl ⟨hhead, hflag.resolve_left hne⟩, fun hne => absurd hwords hne, fun _ => .inl hhead⟩
  | ack hhead htime hwords hflag =>
    obtain ⟨hrtcw, hlock⟩ := State.timeSide_eq_iff.1 htime
    exact ⟨fun hne => absurd hrtcw hne, fun hne => absurd hlock (by tauto),
      fun hne => .inr ⟨hhead, hflag.resolve_left hne⟩, fun hne => absurd hwords hne,
      fun _ => .inr (.inl hhead)⟩

end Sys2Proof.Machine
end

section
/-! The weekday command (R219, R220): the formula written out on its domain. -/

namespace Sys2Proof.Machine

theorem wkdayInDomain_iff {y m d : Byte} : wkdayInDomain y m d = true ↔
    ¬ (99 < y.toNat ∨ m.toNat < 1 ∨ 12 < m.toNat ∨ d.toNat < 1 ∨ 31 < d.toNat) := by
  simp only [wkdayInDomain, Bool.and_eq_true, decide_eq_true_eq]
  omega

/-- The table `MO` of R219. -/
theorem monthOffset_eq {m : Nat} (h1 : 1 ≤ m) (h12 : m ≤ 12) :
    monthOffset m = [0, 3, 3, 6, 1, 4, 6, 2, 5, 0, 3, 5].getD (m - 1) 0 := by
  interval_cases m <;> rfl

theorem exec_wkday (y m d : Byte) (s : State) : exec (.wkday y m d) s = .next
    (if wkdayInDomain y m d then
      s.responded (BitVec.ofNat 32 (weekday y.toNat m.toNat d.toNat)) [] false
     else s.failed .badArg) := rfl

/-- Settles O29: inside the domain `weekday` is its formula. -/
theorem wkdayComputesTheFormula : Obligations.WkdayComputesTheFormula := by
  intro y m d s bad offset
  rw [exec_wkday]
  refine ⟨fun hbad => ?_, fun hgood => ?_⟩
  · rw [if_neg fun h => wkdayInDomain_iff.1 h hbad]
  · have hdomain : y.toNat ≤ 99 ∧ 1 ≤ m.toNat ∧ m.toNat ≤ 12 ∧ 1 ≤ d.toNat ∧ d.toNat ≤ 31 := by omega
    have ⟨_, hm1, hm12, _⟩ := hdomain
    rw [if_pos (wkdayInDomain_iff.2 hgood), weekday, if_pos hdomain, monthOffset_eq hm1 hm12]

end Sys2Proof.Machine
end

section
/-! The setters (R218, R221 to R227): the numbers they wrap to, as the bytes they store and the words they
return. -/

namespace Sys2Proof.Machine

/-! ### Values -/

/-- The two digits of a number, one in each nibble. -/
def bcdDigits (x : Nat) : Nat := x / 10 * 16 + x % 10

theorem bin2bcd_eq {x : Nat} (h : x ≤ 99) : bin2bcd x = BitVec.ofNat 8 (bcdDigits x) := if_pos h

theorem setterResult_eq {x : Nat} (h : x ≤ 99) :
    setterResult x = BitVec.ofNat 32 (256 * bcdDigits x + x) := by
  have key : ∀ w : Fin 100, setterResult w.val = BitVec.ofNat 32 (256 * bcdDigits w.val + w.val) := by
    decide
  exact key ⟨x, by omega⟩

theorem yearResult_eq {x : Nat} (h : x ≤ 99) (adj : Bool) : yearResult adj x =
    BitVec.ofNat 32 ((if adj then 65536 else 0) + 256 * bcdDigits x + x) := by
  have key : ∀ (b : Bool) (w : Fin 100), yearResult b w.val =
      BitVec.ofNat 32 ((if b then 65536 else 0) + 256 * bcdDigits w.val + w.val) := by decide
  exact key adj ⟨x, by omega⟩

theorem wrap60_eq (v : Nat) : wrap60 v = (if 60 ≤ v then 0 else v, decide (60 ≤ v)) := by
  unfold wrap60
  split <;> simp [*]

theorem wrap24_eq (v : Nat) : wrap24 v = (if 24 ≤ v then 0 else v, decide (24 ≤ v)) := by
  unfold wrap24
  split <;> simp [*]

theorem wrap100_eq (v : Nat) : wrap100 v = (if 100 ≤ v then 0 else v, decide (100 ≤ v)) := by
  unfold wrap100
  split <;> simp [*]

theorem wrapMonth_eq (v : Nat) :
    wrapMonth v = (if v < 1 then 12 else if 12 < v then 1 else v, decide (v < 1 ∨ 12 < v)) := by
  unfold wrapMonth
  split
  · simp [*]
  · split <;> simp [*]

theorem wrapDay_eq (ld v : Nat) :
    wrapDay ld v = (if v = 0 then ld else if ld < v then 1 else v, decide (v = 0 ∨ ld < v)) := by
  unfold wrapDay
  split
  · simp [*]
  · split <;> simp [*]

/-! ### The setters of one field -/

section Setters

variable {s : State} {xw : Nat × Bool} {x : Nat} {w : Bool} {f : Snap → Byte → Snap}
  {g : AlarmSnap → Byte → AlarmSnap}

theorem next_setField_pri (hxw : xw = (x, w)) (hx : xw.1 ≤ 99) :
    (.next (s.setField 0#8 xw f g) : Result) = .next
      { s.responded (BitVec.ofNat 32 (256 * bcdDigits x + x)) [] w with
        pri := f s.pri (BitVec.ofNat 8 (bcdDigits x)) } := by
  subst hxw
  rw [State.setField_clk, setterResult_eq hx, bin2bcd_eq hx]
  rfl

theorem next_setField_alm (hxw : xw = (x, w)) (hx : xw.1 ≤ 99) :
    (.next (s.setField 1#8 xw f g) : Result) = .next
      { s.responded (BitVec.ofNat 32 (256 * bcdDigits x + x)) [] w with
        alm := g s.alm (BitVec.ofNat 8 (bcdDigits x)) } := by
  subst hxw
  rw [State.setField_alm, setterResult_eq hx, bin2bcd_eq hx]
  rfl

theorem ne_targets {a : Byte} (h : 1 < a.toNat) : a ≠ 0#8 ∧ a ≠ 1#8 := by
  constructor <;> rintro rfl <;> exact absurd h (by decide)

theorem next_setField_refused {a : Byte} (h : 1 < a.toNat) :
    (.next (s.setField a xw f g) : Result) = .next (s.failed .badArg) :=
  congrArg Host.Outcome.next (State.setField_other (ne_targets h).1 (ne_targets h).2)

end Setters

/-- Settles O30: each setter is `setField` of its wrapped value. -/
theorem fieldSettersWrapAndStore : Obligations.FieldSettersWrapAndStore := by
  intro a v s n bcd out x60 x24 xm
  have h60 : (wrap60 n).1 ≤ 99 := (wrap60_le n).trans (by decide)
  have h24 : (wrap24 n).1 ≤ 99 := (wrap24_le n).trans (by decide)
  have hmonth : (wrapMonth n).1 ≤ 99 := (wrapMonth_range n).2.trans (by decide)
  exact ⟨⟨next_setField_pri (wrap60_eq n) h60, next_setField_alm (wrap60_eq n) h60⟩,
    ⟨next_setField_pri (wrap60_eq n) h60, next_setField_alm (wrap60_eq n) h60⟩,
    ⟨next_setField_pri (wrap24_eq n) h24, next_setField_alm (wrap24_eq n) h24⟩,
    ⟨next_setField_pri (wrapMonth_eq n) hmonth, next_setField_alm (wrapMonth_eq n) hmonth⟩,
    fun ha => ⟨next_setField_refused ha, next_setField_refused ha, next_setField_refused ha,
      next_setField_refused ha⟩⟩

/-! ### The day and the year -/

/-- The table of R14, February by the leap rule. -/
theorem lastday_eq {y m : Nat} (h1 : 1 ≤ m) (h12 : m ≤ 12) (hy : y ≤ 99) : lastday y m =
    [31, if y % 4 = 0 then 29 else 28, 31, 30, 31, 30, 31, 31, 30, 31, 30, 31].getD (m - 1) 0 := by
  unfold lastday
  rw [if_pos ⟨h1, h12, hy⟩]
  interval_cases m <;> simp [daysPerMonth, leap]

theorem wrapDay_lastday_le {p : Snap} (hp : snapValid p = true) (v : Nat) :
    (wrapDay (lastday (bcd2bin p.year) (bcd2bin p.month)) v).1 ≤ 99 := by
  obtain ⟨hl28, hl31⟩ := lastday_range_of_snapValid hp
  have hrange := wrapDay_range (v := v) (show 1 ≤ lastday (bcd2bin p.year) (bcd2bin p.month) by omega)
  omega

theorem lastday_eq_of_snapValid {p : Snap} (hp : snapValid p = true) :
    lastday (bcd2bin p.year) (bcd2bin p.month) =
      [31, if bcd2bin p.year % 4 = 0 then 29 else 28, 31, 30, 31, 30, 31, 31, 30, 31, 30, 31].getD
        (bcd2bin p.month - 1) 0 := by
  have hf := snapValid_iff_legal.1 hp
  obtain ⟨hmo1, hmo12⟩ := (hf .month).range
  exact lastday_eq hmo1 hmo12 (hf .year).range.2

/-- Settles O31: `setField` of the day wrapped at the table's last day, of `PRI` as it is and of `ALM`
with a weekday put in. -/
theorem setdayWrapsAtTheMonthsEnd : Obligations.SetdayWrapsAtTheMonthsEnd := by
  intro a v s n last x bcd out
  have hwrap {p : Snap} (hp : snapValid p = true) :
      wrapDay (lastday (bcd2bin p.year) (bcd2bin p.month)) n = (x (last (bcd2bin p.year) (bcd2bin p.month)),
        decide (n = 0 ∨ last (bcd2bin p.year) (bcd2bin p.month) < n)) := by
    rw [lastday_eq_of_snapValid hp]
    exact wrapDay_eq _ n
  refine ⟨fun hp => ?_, fun ha => ?_, next_setField_refused⟩
  · exact next_setField_pri (hwrap hp) (wrapDay_lastday_le hp n)
  · have hp := alarmValid_iff.1 ha
    exact next_setField_alm (hwrap hp) (wrapDay_lastday_le hp n)

theorem exec_setyear_pri {v : Byte} {s : State} {x : Nat} {w : Bool} (hw : wrap100 v.toNat = (x, w)) :
    exec (.setyear 0#8 v) s = .next { s.responded (yearResult (dayAdjusted x s.pri.month s.pri.day) x) []
        (w || dayAdjusted x s.pri.month s.pri.day) with
      pri := { s.pri with
        year := bin2bcd x
        day := if dayAdjusted x s.pri.month s.pri.day then 0x01#8 else s.pri.day } } := by
  show execSetyear 0#8 v s = _
  unfold execSetyear
  rw [hw]
  rfl

theorem exec_setyear_alm {v : Byte} {s : State} {x : Nat} {w : Bool} (hw : wrap100 v.toNat = (x, w)) :
    exec (.setyear 1#8 v) s = .next { s.responded (yearResult (dayAdjusted x s.alm.month s.alm.day) x) []
        (w || dayAdjusted x s.alm.month s.alm.day) with
      alm := { s.alm with
        year := bin2bcd x
        day := if dayAdjusted x s.alm.month s.alm.day then 0x01#8 else s.alm.day } } := by
  show execSetyear 1#8 v s = _
  unfold execSetyear
  rw [hw]
  rfl

theorem exec_setyear_refused {a v : Byte} {s : State} (h : 1 < a.toNat) :
    exec (.setyear a v) s = .next (s.failed .badArg) := by
  obtain ⟨h0, h1⟩ := ne_targets h
  show execSetyear a v s = _
  unfold execSetyear
  dsimp only
  rw [if_neg h0, if_neg h1]
  rfl

/-- Settles O32: the wrapped year is below 100, so its digits and its result are those of a number. -/
theorem setyearRevalidatesTheDay : Obligations.SetyearRevalidatesTheDay := by
  intro a v s n x bcd adjusted out
  have hw : wrap100 v.toNat = (x, decide (100 ≤ n)) := wrap100_eq n
  have hx : x ≤ 99 := by
    have hle := wrap100_le n
    rwa [hw] at hle
  refine ⟨?_, ?_, exec_setyear_refused⟩
  · rw [exec_setyear_pri hw, yearResult_eq hx, bin2bcd_eq hx]
    rfl
  · rw [exec_setyear_alm hw, yearResult_eq hx, bin2bcd_eq hx]
    rfl

end Sys2Proof.Machine
end

section
/-! Reading state back (R236, R238): RDSNAP by its selector, RDSTAT by the fields of its word. -/

namespace Sys2Proof.Machine

/-- Settles O36: each of the three selectors picks its snapshot, and any other is none of them. -/
theorem rdsnapReturnsTheSnapshot : Obligations.RdsnapReturnsTheSnapshot := by
  refine fun a s => ⟨rfl, rfl, rfl, fun ha => congrArg Host.Outcome.next ?_⟩
  have hne (b : Byte) (hb : b.toNat ≤ 2) : a ≠ b := by
    rintro rfl
    omega
  rw [if_neg (hne _ (by decide)), if_neg (hne _ (by decide)), if_neg (hne _ (by decide))]
  rfl

theorem getLsbD_fieldAt {w : Nat} (n : Nat) (v : BitVec w) (h : n + w ≤ 32) (i : Nat) :
    (v.setWidth 32 <<< n).getLsbD i = (decide (n ≤ i) && v.getLsbD (i - n)) := by
  by_cases hi : i < 32
  · by_cases hn : n ≤ i
    · simp [hi, hn]
    · simp [hi, hn, show i < n by omega]
  · simp [hi, BitVec.getLsbD_of_ge v (i - n) (by omega)]

theorem getLsbD_bitAt {n : Nat} (hn : n < 32) (b : Bool) (i : Nat) :
    (bitAt n b).getLsbD i = (decide (n = i) && b) := by
  unfold bitAt
  rw [getLsbD_fieldAt n _ (by omega), BitVec.getLsbD_ofBool]
  grind

/-- The fields of RDSTAT's word, each where R238 has it. -/
theorem getLsbD_statusWord (s : State) (i : Nat) : s.statusWord.getLsbD i =
    (s.fbk.code.getLsbD i || (decide (3 = i) && s.almif) || (decide (4 = i) && alrmen s.alcfg) ||
      (decide (5 ≤ i) && (amask s.alcfg).getLsbD (i - 5)) || (decide (9 = i) && s.wren) ||
      (decide (10 = i) && s.half) || (decide (11 = i) && s.irqinh) ||
      (decide (12 ≤ i) && s.keyst.getLsbD (i - 12)) ||
      (decide (16 ≤ i) && s.statusLength.getLsbD (i - 16))) := by
  have hcode : (s.fbk.code.setWidth 32).getLsbD i = s.fbk.code.getLsbD i := by
    simpa using getLsbD_fieldAt 0 s.fbk.code (by decide) i
  unfold State.statusWord
  simp only [BitVec.getLsbD_or, hcode, getLsbD_bitAt (show 3 < 32 by decide),
    getLsbD_bitAt (show 4 < 32 by decide), getLsbD_bitAt (show 9 < 32 by decide),
    getLsbD_bitAt (show 10 < 32 by decide), getLsbD_bitAt (show 11 < 32 by decide),
    getLsbD_fieldAt 5 (amask s.alcfg) (by decide), getLsbD_fieldAt 12 s.keyst (by decide),
    getLsbD_fieldAt 16 s.statusLength (by decide)]

theorem extractLsb'_eq_of_bits {n w : Nat} {r : Word} {v : BitVec w}
    (h : ∀ i, i < w → r.getLsbD (n + i) = v.getLsbD i) : r.extractLsb' n w = v := by
  apply BitVec.eq_of_getLsbD_eq
  intro i hi
  rw [BitVec.getLsbD_extractLsb', h i hi]
  simp [hi]

/-- Settles O37: at each bit of a field the other fields of the word have none. -/
theorem rdstatReturnsTheStatusBits : Obligations.RdstatReturnsTheStatusBits := by
  refine fun s => ⟨s.statusWord, rfl, extractLsb'_eq_of_bits fun i hi => ?tag, ?_, ?_,
    extractLsb'_eq_of_bits fun i hi => ?mask, ?_, ?_, ?_, extractLsb'_eq_of_bits fun i hi => ?keys,
    extractLsb'_eq_of_bits fun i hi => ?zero, extractLsb'_eq_of_bits fun i hi => ?length⟩
  all_goals rw [getLsbD_statusWord]
  case tag | keys | zero => interval_cases i <;> simp
  case mask => interval_cases i <;> simp [amask]
  case length => interval_cases i <;> simp [State.statusLength]
  all_goals simp [alrmen]

end Sys2Proof.Machine
end

section
/-! The tick side (R275, R278, R279, R282): the phase, the words and the alarm, what a tick and an
acknowledge make of them as equations, and the comparator's table. -/

namespace Sys2Proof.Machine

/-! ### What a tick and an acknowledge use -/

/-- The pieces of the state a tick or an acknowledge reads or writes. -/
structure TickSide where
  half : Bool
  rtcw : ClockWords
  alrmw : ClockWords
  alcfg : BitVec 8
  almif : Bool
  irqinh : Bool

def State.tickSide (s : State) : TickSide := ⟨s.half, s.rtcw, s.alrmw, s.alcfg, s.almif, s.irqinh⟩

/-- The same state with another tick side. -/
def State.withTickSide (s : State) (c : TickSide) : State :=
  { s with
    half := c.half
    rtcw := c.rtcw
    alrmw := c.alrmw
    alcfg := c.alcfg
    almif := c.almif
    irqinh := c.irqinh }

@[simp] theorem State.tickSide_withTickSide (s : State) (c : TickSide) : (s.withTickSide c).tickSide = c := rfl

@[simp] theorem State.withTickSide_tickSide (s : State) : s.withTickSide s.tickSide = s := rfl

/-- The words after a tick: the returning phase is a second edge (R275). -/
def TickSide.words (c : TickSide) : ClockWords := if c.half then advanceWords c.rtcw else c.rtcw

/-- A tick sets off the alarm: it is enabled and matches the words as just updated (R278, R279). -/
def TickSide.fires (c : TickSide) : Bool :=
  c.alcfg.getLsbD 7 && alarmMatch (c.alcfg.extractLsb' 0 4) c.half c.words c.alrmw

/-- HTICK on the tick side (R275, R279). -/
def TickSide.tick (c : TickSide) : TickSide :=
  { c with
    half := !c.half
    rtcw := c.words
    almif := c.almif || c.fires
    alcfg := if c.fires then c.alcfg &&& 0x7F#8 else c.alcfg }

/-- ALMACK on the tick side (R282). -/
def TickSide.ack (c : TickSide) : TickSide :=
  if c.almif = true ∧ c.irqinh = false then
    { c with almif := false, alcfg := c.alcfg &&& 0x7F#8 ||| 0x80#8 }
  else c

theorem State.compareAlarm_eq (s : State) (edge : Bool) :
    let fires := alrmen s.alcfg && alarmMatch (amask s.alcfg) edge s.rtcw s.alrmw
    s.compareAlarm edge = { s with
      almif := s.almif || fires
      alcfg := if fires then s.alcfg &&& 0x7F#8 else s.alcfg } := by
  intro fires
  unfold State.compareAlarm
  rw [setAlrmen_false]
  change (if fires = true then _ else _) = _
  cases fires with
  | false => rw [Bool.or_false]; rfl
  | true => rw [Bool.or_true]; rfl

/-- The tick in both phases: the comparator looks at the words the phase leaves. -/
theorem State.htick_eq_compareAlarm (s : State) :
    s.htick = State.compareAlarm { s with half := !s.half, rtcw := s.tickSide.words } s.half := by
  unfold State.htick
  cases h : s.half <;> simp [TickSide.words, State.tickSide, h]

theorem State.htick_eq (s : State) : s.htick = s.withTickSide s.tickSide.tick := by
  rw [State.htick_eq_compareAlarm, State.compareAlarm_eq]
  rfl

theorem State.almackEnabled_iff {s : State} :
    s.almackEnabled = true ↔ s.almif = true ∧ s.irqinh = false := by
  rw [State.almackEnabled, Bool.and_eq_true, Bool.not_eq_true']

theorem State.almack_eq_ite (s : State) : s.almack = if s.almif = true ∧ s.irqinh = false then
      { s with almif := false, alcfg := s.alcfg &&& 0x7F#8 ||| 0x80#8 }
    else s :=
  if_congr State.almackEnabled_iff rfl rfl

theorem State.almack_eq (s : State) : s.almack = s.withTickSide s.tickSide.ack := by
  unfold TickSide.ack
  rw [State.almack_eq_ite, apply_ite s.withTickSide]
  rfl

/-! ### The events -/

theorem step_of_htick {s : State} {rest : List Event} (h : s.agenda = .htick :: rest) :
    step s = .next { s.renewFree with agenda := rest }.htick := by
  unfold step State.nextStep State.headEvent
  simp only [State.renewFree_agenda, h]

theorem step_of_almack {s : State} {rest : List Event} (h : s.agenda = .almack :: rest) :
    step s = .next { s.renewFree with agenda := rest }.almack := by
  unfold step State.nextStep State.headEvent
  simp only [State.renewFree_agenda, h]

/-- Settles O38: the step is a tick, and the tick acts on the tick side. -/
theorem htickTogglesAdvancesAndCompares : Obligations.HtickTogglesAdvancesAndCompares := by
  intro s rest h
  rw [step_of_htick h, State.htick_eq]
  rfl

/-- Settles O42: the step is an acknowledge, which acts exactly when it is enabled. -/
theorem almackAcknowledgesAndRearms : Obligations.AlmackAcknowledgesAndRearms := by
  intro s rest h
  rw [step_of_almack h, State.almack_eq_ite]
  rfl

/-! ### The comparator -/

/-- Settles O41: at each mask the comparator is the conjunction of its row's tests. -/
theorem alarmComparesByGranularity : Obligations.AlarmComparesByGranularity := by
  refine fun edge t a => ⟨rfl, Iff.rfl, ?_, ?_, ?_, ?_, ?_, ?_, ?_, ?_⟩
  all_goals simp only [alarmMatch, units, Bool.and_eq_true, beq_iff_eq, and_assoc]

end Sys2Proof.Machine
end

section
/-! A transaction and the clock (R202): a step of a transaction is the same whatever the tick side is, and
leaves it as it was, so the step commutes with all that acts on the tick side alone. -/

namespace Sys2Proof.Machine

/-! ### Answers under another tick side -/

/-- The same answer with another tick side. -/
def answerWithTick (c : TickSide) : Result → Result
  | .next t => .next (t.withTickSide c)
  | .fault e => .fault e
  | .refused e => .refused e

/-- An operation is the same whatever the tick side is. -/
def IgnoresTick (op : State → Result) : Prop :=
  ∀ s c, answerWithTick c (op s) = op (s.withTickSide c)

theorem State.withTickSide_goto (s : State) (c : TickSide) (k : Nat) :
    (s.goto k).withTickSide c = (s.withTickSide c).goto k := by
  cases h : s.seq with
  | idle => rw [State.goto_idle h, State.goto_idle (s := s.withTickSide c) h]
  | busy cmd pl j =>
    rw [State.goto_busy h, State.goto_busy (s := s.withTickSide c) h]
    rfl

theorem IgnoresTick.goto (k : Nat) : IgnoresTick fun s => .next (s.goto k) :=
  fun s c => congrArg Host.Outcome.next (s.withTickSide_goto c k)

theorem answerWithTick_ite {p : Prop} [Decidable p] {c : TickSide} {a b a' b' : Result}
    (ha : answerWithTick c a = a') (hb : answerWithTick c b = b') :
    answerWithTick c (if p then a else b) = if p then a' else b' := by
  rw [apply_ite (answerWithTick c), ha, hb]

theorem answerWithTick_nextIte (p : Prop) [Decidable p] (a b : State) (c : TickSide) :
    answerWithTick c (.next (if p then a else b)) = .next (if p then a.withTickSide c else b.withTickSide c) :=
  congrArg Host.Outcome.next (apply_ite (State.withTickSide · c) p a b)

theorem answerWithTick_readFb {s : State} {c : TickSide} {off n : Nat} {cont cont' : List Byte → Result}
    (h : ∀ bs, answerWithTick c (cont bs) = cont' bs) :
    answerWithTick c (s.readFb off n cont) = (s.withTickSide c).readFb off n cont' := by
  unfold State.readFb
  exact answerWithTick_ite (h _) rfl

theorem answerWithTick_writeFb {s : State} {c : TickSide} {off : Nat} {bs : List Byte}
    {cont : State → Result} (h : IgnoresTick cont) :
    answerWithTick c (s.writeFb off bs cont) = (s.withTickSide c).writeFb off bs cont := by
  unfold State.writeFb
  exact answerWithTick_ite (h _ c) rfl

/-! ### The steps of a transaction (R182 to R186) -/

theorem IgnoresTick.xactBuild (f : List Byte) : IgnoresTick (·.xactBuild f) := by
  unfold State.xactBuild State.loadFb
  exact fun _ _ => answerWithTick_writeFb fun _ c => IgnoresTick.goto 2 _ c

theorem IgnoresTick.xactSend : IgnoresTick State.xactSend := by
  intro s c
  unfold State.xactSend
  exact answerWithTick_ite (answerWithTick_readFb fun _ => IgnoresTick.goto _ _ c) (IgnoresTick.goto 3 s c)

theorem IgnoresTick.xactSetup (explen : Nat) : IgnoresTick (·.xactSetup explen) :=
  fun _ c => IgnoresTick.goto 4 _ c

theorem IgnoresTick.xactByte (b : Byte) : IgnoresTick (·.xactByte b) :=
  fun _ _ => answerWithTick_writeFb fun _ c => answerWithTick_ite (IgnoresTick.goto 5 _ c) rfl

theorem IgnoresTick.xactNone : IgnoresTick State.xactNone := by
  intro s c
  unfold State.xactNone
  exact answerWithTick_ite rfl rfl

theorem IgnoresTick.xactPoll : IgnoresTick State.xactPoll := by
  intro s c
  cases hrx : s.rxNext with
  | some b =>
    rw [State.xactPoll_of_some hrx, State.xactPoll_of_some (s := s.withTickSide c) hrx]
    exact IgnoresTick.xactByte b _ c
  | none =>
    rw [State.xactPoll_of_none hrx, State.xactPoll_of_none (s := s.withTickSide c) hrx]
    exact IgnoresTick.xactNone _ c

theorem IgnoresTick.xactCheck {ok : State → Result} (hok : IgnoresTick ok) :
    IgnoresTick (·.xactCheck ok) :=
  fun _ c => answerWithTick_readFb fun _ => answerWithTick_ite (hok _ c) rfl

theorem transactionEnd_ignoresTick (i : Instr) : IgnoresTick (transactionEnd i) := by
  intro s c
  unfold transactionEnd
  split
  · exact answerWithTick_readFb fun _ => rfl
  · rfl

theorem IgnoresTick.xact (k : Nat) (f : List Byte) (n : Nat) {ok : State → Result} (hok : IgnoresTick ok) :
    IgnoresTick (·.xact k f n ok) := by
  match k with
  | 1 => exact .xactBuild f
  | 2 => exact .xactSend
  | 3 => exact .xactSetup n
  | 4 => exact .xactPoll
  | 5 => exact .xactCheck hok
  | 0 | _ + 6 => exact fun _ _ => rfl

/-! ### The acceptance -/

theorem execRdhold_withTickSide_of_idle {a : Byte} {b n : Half} {s : State} (h : s.seq = .idle)
    (c : TickSide) :
    answerWithTick c (execRdhold a b n s) = execRdhold a b n (s.withTickSide c) := by
  rw [execRdhold_of_idle h, execRdhold_of_idle (s := s.withTickSide c) h]
  exact answerWithTick_nextIte _ _ _ c

theorem State.writeMultiple_withTickSide_of_idle {a : Byte} {b : Half} {pl : List Byte} {s : State}
    (h : s.seq = .idle) (c : TickSide) :
    answerWithTick c (s.writeMultiple a b pl) = (s.withTickSide c).writeMultiple a b pl := by
  rw [State.writeMultiple_of_idle h, State.writeMultiple_of_idle (s := s.withTickSide c) h]
  exact answerWithTick_nextIte _ _ _ c

theorem exec_withTickSide_of_idle {i : Instr} {s : State} (hi : (transaction s.params i).isSome = true)
    (h : s.seq = .idle) (c : TickSide) : answerWithTick c (exec i s) = exec i (s.withTickSide c) := by
  match i, hi with
  | .rdhold .., _ => exact execRdhold_withTickSide_of_idle h c
  | .wrmult .., _ => exact State.writeMultiple_withTickSide_of_idle h c
  | .unlock, _ => exact State.writeMultiple_withTickSide_of_idle h c

/-! ### The commands -/

/-- A step of a transaction is the same whatever the tick side is. -/
theorem exec_withTickSide {i : Instr} {s : State} (hi : (transaction s.params i).isSome = true)
    (c : TickSide) : answerWithTick c (exec i s) = exec i (s.withTickSide c) := by
  cases hseq : s.seq with
  | idle => exact exec_withTickSide_of_idle hi hseq c
  | busy cmd pl k =>
    obtain ⟨⟨f, n⟩, hx⟩ := Option.isSome_iff_exists.1 hi
    rw [exec_eq_xact hx hseq, exec_eq_xact (s := s.withTickSide c) hx hseq]
    exact IgnoresTick.xact k f n (transactionEnd_ignoresTick i) s c

/-- A step of a transaction leaves the tick side as it was: it answers with the one it is given, and the
state has its own. -/
theorem exec_tickSide {i : Instr} {s t : State} (hi : (transaction s.params i).isSome = true)
    (h : exec i s = .next t) : t.tickSide = s.tickSide := by
  have hself : answerWithTick s.tickSide (.next t) = .next t := by
    rw [← h, exec_withTickSide hi, State.withTickSide_tickSide]
  calc t.tickSide = (t.withTickSide s.tickSide).tickSide := by rw [Host.Outcome.next.inj hself]
    _ = s.tickSide := State.tickSide_withTickSide t s.tickSide

/-- A step of a transaction commutes with what acts on the tick side alone. -/
theorem exec_commutes {i : Instr} {s t : State} (g : TickSide → TickSide)
    (hi : (transaction s.params i).isSome = true) (h : exec i s = .next t) :
    exec i (s.withTickSide (g s.tickSide)) = .next (t.withTickSide (g t.tickSide)) := by
  rw [← exec_withTickSide hi, h, exec_tickSide hi h]
  rfl

/-- Settles O22: the tick and the acknowledge act on the tick side alone. -/
theorem transactionsIgnoreTheClock : Obligations.TransactionsIgnoreTheClock := by
  intro i s t hi h
  rw [State.htick_eq, State.htick_eq, State.almack_eq, State.almack_eq]
  exact ⟨exec_commutes TickSide.tick hi h, exec_commutes TickSide.ack hi h⟩

end Sys2Proof.Machine
end
